-- ==== Sys2Proof/Word.lean ====
section
/-! DEFINITION. The plain value types of the block: the command byte, the 2-bit counter, the branch address and
the four slot numbers (spec 00_scope.md R10, R11, R13; 30_encoding.md R57). -/

namespace Sys2Proof

/-- The command byte `cmd[7:0]` (R57). Bit 0 is the least significant bit (R13). -/
abbrev Byte := BitVec 8

/-- A saturating counter: 2 bits, unsigned, in `[0,3]` (R29, R75). -/
abbrev Counter := BitVec 2

/-- A branch address, the unsigned value on the `ADDR_W`-bit bus (R44, R62). `ADDR_W` is `Config.addrW`. A value is
well formed when it is below `2 ^ addrW` (`Instr.wellFormed`, `PortInput.fits`). -/
abbrev Addr := Nat

/-- The four slot numbers of the array (R11). -/
inductive SlotId
  | u0
  | u1
  | u2
  | u3
deriving DecidableEq, Repr

end Sys2Proof
end

