-- ==== Sys2Proof/Config.lean ====
section
/-! DEFINITION. What is fixed when the block is built (elaboration): `ADDR_W` and `UNITS` with each unit's parameters
(spec 00_scope.md R6 to R12; 70_reset_and_hazards.md R164), their well-formedness (60_exceptions.md R145), and the two
reset constants. The block has no free value: "Nothing in the block is non-deterministic" (R19). -/

namespace Sys2Proof

/-- What `UNITS` gives one slot: a unit kind with its parameters, or `NONE` (R6, R7, R8, R11). -/
inductive UnitConfig
  | none
  | bim (tableSize : Nat)
  | gsh (historyBits : Nat)
  | hyb (historyBits tableSize : Nat)
deriving DecidableEq, Repr

/-- The unit kinds that a mnemonic's suffix can name (R2, R70). -/
inductive Kind
  | bim
  | gsh
  | hyb
deriving DecidableEq, Repr

/-- `UNITS[s].kind`; a slot configured `NONE` has no kind (R11). -/
def UnitConfig.kind : UnitConfig → Option Kind
  | .none => Option.none
  | .bim _ => some .bim
  | .gsh _ => some .gsh
  | .hyb _ _ => some .hyb

/-- A unit that can be built: every `table_size` and every `history_bits` is at least 1 (R9, R145). -/
def UnitConfig.ok : UnitConfig → Bool
  | .none => true
  | .bim n => decide (1 ≤ n)
  | .gsh hb => decide (1 ≤ hb)
  | .hyb hb n => decide (1 ≤ hb) && decide (1 ≤ n)

/-- The configuration `UNITS` of the four slots (R11). -/
structure Units where
  u0 : UnitConfig
  u1 : UnitConfig
  u2 : UnitConfig
  u3 : UnitConfig
deriving DecidableEq, Repr

/-- `UNITS[s]`. -/
def Units.get (u : Units) : SlotId → UnitConfig
  | .u0 => u.u0
  | .u1 => u.u1
  | .u2 => u.u2
  | .u3 => u.u3

/-- Every unit of `UNITS` can be built (R145). -/
def Units.ok (u : Units) : Bool :=
  u.u0.ok && u.u1.ok && u.u2.ok && u.u3.ok

/-- The default configuration: BIM(1024), GSH(10), HYB(10, 1024), NONE (R11). -/
def Units.default : Units :=
  { u0 := .bim 1024, u1 := .gsh 10, u2 := .hyb 10 1024, u3 := .none }

/-- All that is fixed at elaboration (R164). `addrW` is `ADDR_W`, which the spec leaves OPEN (R10, D3): no default, and
every statement that mentions it holds for each value. -/
structure Config where
  addrW : Nat
  units : Units
deriving DecidableEq, Repr

/-- The configurations of which a block exists: the others are the source's `ConfigurationError` (R145). -/
def Config.ok (c : Config) : Bool :=
  decide (1 ≤ c.addrW) && c.units.ok

/-- The value of every table entry and every selector entry after reset (R12, R22, R23, R25, R161). -/
def freshCounter : Counter := 1

/-- The value of every history register after reset (R12, R23, R25, R161). -/
def freshHistory : Nat := 0

end Sys2Proof
end

