-- ==== Sys2Proof/Syntax.lean ====
section
/-! DEFINITION. The commands as data: one constructor for each row of spec/opcode_table.json, in the table's order.

Every constructor keeps ALL the bits its row leaves free, the ignored ones too, so that a command byte and an address
say neither more nor less than the term (`decode` and `encode` are inverse). An ignored bit has no effect: the meanings
do not read it (spec 30_encoding.md R68). `ign`, `hi`, `b7` and `mid` are such bits; `t` is the outcome bit `cmd[4]`,
read by UPDATE only (R60); `a` is the address operand (R62). -/

namespace Sys2Proof

/-- One command on the port: the command byte and the address presented with it (R57, R69). -/
structure Command where
  cmd : Byte
  addr : Addr
deriving DecidableEq, Repr

/-- The commands. The three `ERR_OP.RSVD` rows of one operation overlap in the table and mean the same. Here the row of
the LOWEST reserved bit that is set stands for the byte (log entry 9): `hi` is `cmd[7:6]`, `b7` is `cmd[7]`, `mid` is
`cmd[4:2]`. -/
inductive Instr
  | nop (ign : BitVec 6) (a : Addr)
  | predictBim (sl : SlotId) (ign : Bool) (a : Addr)
  | updateBim (sl : SlotId) (t : Bool) (a : Addr)
  | predictGsh (sl : SlotId) (ign : Bool) (a : Addr)
  | updateGsh (sl : SlotId) (t : Bool) (a : Addr)
  | predictHyb (sl : SlotId) (ign : Bool) (a : Addr)
  | updateHyb (sl : SlotId) (t : Bool) (a : Addr)
  | predictNone (sl : SlotId) (ign : Bool) (a : Addr)
  | updateNone (sl : SlotId) (t : Bool) (a : Addr)
  | errOp11 (ign : BitVec 6) (a : Addr)
  | errRsvdPredictB5 (hi : BitVec 2) (mid : BitVec 3) (a : Addr)
  | errRsvdPredictB6 (b7 : Bool) (mid : BitVec 3) (a : Addr)
  | errRsvdPredictB7 (mid : BitVec 3) (a : Addr)
  | errRsvdUpdateB5 (hi : BitVec 2) (mid : BitVec 3) (a : Addr)
  | errRsvdUpdateB6 (b7 : Bool) (mid : BitVec 3) (a : Addr)
  | errRsvdUpdateB7 (mid : BitVec 3) (a : Addr)
deriving DecidableEq, Repr

/-- The address operand presented with a command (R62). -/
def Instr.addr : Instr → Addr
  | .nop _ a => a
  | .predictBim _ _ a => a
  | .updateBim _ _ a => a
  | .predictGsh _ _ a => a
  | .updateGsh _ _ a => a
  | .predictHyb _ _ a => a
  | .updateHyb _ _ a => a
  | .predictNone _ _ a => a
  | .updateNone _ _ a => a
  | .errOp11 _ a => a
  | .errRsvdPredictB5 _ _ a => a
  | .errRsvdPredictB6 _ _ a => a
  | .errRsvdPredictB7 _ a => a
  | .errRsvdUpdateB5 _ _ a => a
  | .errRsvdUpdateB6 _ _ a => a
  | .errRsvdUpdateB7 _ a => a

/-- The slot and the kind (`none` for `NONE`) that a successful or unconfigured PREDICT or UPDATE is addressed to. The
other commands read no slot (R136). -/
def Instr.target : Instr → Option (SlotId × Option Kind)
  | .nop _ _ => none
  | .predictBim sl _ _ => some (sl, some .bim)
  | .updateBim sl _ _ => some (sl, some .bim)
  | .predictGsh sl _ _ => some (sl, some .gsh)
  | .updateGsh sl _ _ => some (sl, some .gsh)
  | .predictHyb sl _ _ => some (sl, some .hyb)
  | .updateHyb sl _ _ => some (sl, some .hyb)
  | .predictNone sl _ _ => some (sl, none)
  | .updateNone sl _ _ => some (sl, none)
  | .errOp11 _ _ => none
  | .errRsvdPredictB5 _ _ _ => none
  | .errRsvdPredictB6 _ _ _ => none
  | .errRsvdPredictB7 _ _ => none
  | .errRsvdUpdateB5 _ _ _ => none
  | .errRsvdUpdateB6 _ _ _ => none
  | .errRsvdUpdateB7 _ _ => none

end Sys2Proof
end

