-- ==== Sys2Proof/WellFormed.lean ====
section
/-! DEFINITION. Which commands a configured block can be given: the address fits the bus (spec 30_encoding.md R62), and
the kind in the mnemonic is the kind configured in the slot (R59, R67, R70). -/

namespace Sys2Proof

/-- The address is a value of the `ADDR_W`-bit bus (R45, R62). -/
def addrFits (c : Config) (a : Addr) : Bool :=
  decide (a < 2 ^ c.addrW)

/-- The kind that the command's mnemonic names is the kind of its slot. "The assembler checks the suffix against
`UNITS[s].kind` and refuses a mismatch" (R70). -/
def kindFits (u : Units) (i : Instr) : Bool :=
  match i.target with
  | none => true
  | some (sl, k) => decide ((u.get sl).kind = k)

/-- A command that some byte and some address of the block's ports stand for. -/
def Instr.wellFormed (c : Config) (i : Instr) : Bool :=
  addrFits c i.addr && kindFits c.units i

end Sys2Proof
end

