-- ==== Sys2Proof/Decode.lean ====
section
/-! DEFINITION. The decoder of spec 30_encoding.md R64, total on every byte and every address, and after it the encoder,
written from the same tables (R57, R58, R67 and spec/opcode_table.json). The reserved encodings are commands of their
own (`errOp11`, `errRsvd…`), so nothing is left undecoded. -/

namespace Sys2Proof

/-! ## The fields of the command byte (R57) -/

/-- `op = cmd[1:0]` (R58). -/
def cmdOp (c : Byte) : BitVec 2 := c.extractLsb' 0 2

/-- `unit = cmd[3:2]` (R59). -/
def cmdUnit (c : Byte) : BitVec 2 := c.extractLsb' 2 2

/-- `t = cmd[4]` (R60). -/
def cmdT (c : Byte) : Bool := c.getLsbD 4

/-- `rsvd = cmd[7:5]` (R61). -/
def cmdRsvd (c : Byte) : BitVec 3 := c.extractLsb' 5 3

/-- `cmd[7:2]`, which a NOP and the reserved `op` ignore (R68). -/
def cmdIgn (c : Byte) : BitVec 6 := c.extractLsb' 2 6

/-- `cmd[4:2]`, which a command refused for its reserved bits ignores (R67). -/
def cmdMid (c : Byte) : BitVec 3 := c.extractLsb' 2 3

/-- The slot number `s = zext(cmd[3:2])` (R59, R63). -/
def slotOfBits (b : BitVec 2) : SlotId :=
  if b = 0b00#2 then .u0 else if b = 0b01#2 then .u1 else if b = 0b10#2 then .u2 else .u3

/-- The two bits of a slot number (R59). -/
def slotBits : SlotId → BitVec 2
  | .u0 => 0b00#2
  | .u1 => 0b01#2
  | .u2 => 0b10#2
  | .u3 => 0b11#2

/-! ## Decoding (R64) -/

/-- A PREDICT (`op = 0b01`) whose `rsvd` is not zero (R61): the row of its lowest reserved bit. -/
def decodeRsvdPredict (c : Command) : Instr :=
  if c.cmd.getLsbD 5 then .errRsvdPredictB5 (c.cmd.extractLsb' 6 2) (cmdMid c.cmd) c.addr
  else if c.cmd.getLsbD 6 then .errRsvdPredictB6 (c.cmd.getLsbD 7) (cmdMid c.cmd) c.addr
  else .errRsvdPredictB7 (cmdMid c.cmd) c.addr

/-- An UPDATE (`op = 0b10`) whose `rsvd` is not zero (R61): the row of its lowest reserved bit. -/
def decodeRsvdUpdate (c : Command) : Instr :=
  if c.cmd.getLsbD 5 then .errRsvdUpdateB5 (c.cmd.extractLsb' 6 2) (cmdMid c.cmd) c.addr
  else if c.cmd.getLsbD 6 then .errRsvdUpdateB6 (c.cmd.getLsbD 7) (cmdMid c.cmd) c.addr
  else .errRsvdUpdateB7 (cmdMid c.cmd) c.addr

/-- `PREDICT.k(s, address)`, with `k` the kind configured in slot `s` (R59). -/
def decodePredict (u : Units) (c : Command) : Instr :=
  let sl := slotOfBits (cmdUnit c.cmd)
  match u.get sl with
  | .none => .predictNone sl (cmdT c.cmd) c.addr
  | .bim _ => .predictBim sl (cmdT c.cmd) c.addr
  | .gsh _ => .predictGsh sl (cmdT c.cmd) c.addr
  | .hyb _ _ => .predictHyb sl (cmdT c.cmd) c.addr

/-- `UPDATE.k(s, address, t)`, with `k` the kind configured in slot `s` (R59). -/
def decodeUpdate (u : Units) (c : Command) : Instr :=
  let sl := slotOfBits (cmdUnit c.cmd)
  match u.get sl with
  | .none => .updateNone sl (cmdT c.cmd) c.addr
  | .bim _ => .updateBim sl (cmdT c.cmd) c.addr
  | .gsh _ => .updateGsh sl (cmdT c.cmd) c.addr
  | .hyb _ _ => .updateHyb sl (cmdT c.cmd) c.addr

/-- The decoder, in the order of R64: `op = 0b00` first, then `op = 0b11` and the reserved bits, then the slot. -/
def decode (u : Units) (c : Command) : Instr :=
  if cmdOp c.cmd = 0b00#2 then .nop (cmdIgn c.cmd) c.addr
  else if cmdOp c.cmd = 0b11#2 then .errOp11 (cmdIgn c.cmd) c.addr
  else if cmdOp c.cmd = 0b01#2 then
    if cmdRsvd c.cmd = 0b000#3 then decodePredict u c else decodeRsvdPredict c
  else
    if cmdRsvd c.cmd = 0b000#3 then decodeUpdate u c else decodeRsvdUpdate c

/-! ## Encoding (R57, R67) -/

/-- The command byte from its four fields (R57). -/
def packCmd (rsvd : BitVec 3) (t : Bool) (unit op : BitVec 2) : Byte :=
  rsvd ++ BitVec.ofBool t ++ unit ++ op

/-- The command byte from `rsvd = cmd[7:5]`, `cmd[4:2]` and `op`. -/
def packMid (rsvd mid : BitVec 3) (op : BitVec 2) : Byte :=
  rsvd ++ mid ++ op

/-- The byte and the address a command stands for. Each line transcribes the `encoding` string of the command's row in
spec/opcode_table.json. -/
def encode : Instr → Command
  | .nop ign a => ⟨ign ++ 0b00#2, a⟩
  | .predictBim sl x a => ⟨packCmd 0b000#3 x (slotBits sl) 0b01#2, a⟩
  | .updateBim sl t a => ⟨packCmd 0b000#3 t (slotBits sl) 0b10#2, a⟩
  | .predictGsh sl x a => ⟨packCmd 0b000#3 x (slotBits sl) 0b01#2, a⟩
  | .updateGsh sl t a => ⟨packCmd 0b000#3 t (slotBits sl) 0b10#2, a⟩
  | .predictHyb sl x a => ⟨packCmd 0b000#3 x (slotBits sl) 0b01#2, a⟩
  | .updateHyb sl t a => ⟨packCmd 0b000#3 t (slotBits sl) 0b10#2, a⟩
  | .predictNone sl x a => ⟨packCmd 0b000#3 x (slotBits sl) 0b01#2, a⟩
  | .updateNone sl t a => ⟨packCmd 0b000#3 t (slotBits sl) 0b10#2, a⟩
  | .errOp11 ign a => ⟨ign ++ 0b11#2, a⟩
  | .errRsvdPredictB5 hi mid a => ⟨packMid (hi ++ 0b1#1) mid 0b01#2, a⟩
  | .errRsvdPredictB6 b7 mid a => ⟨packMid (BitVec.ofBool b7 ++ 0b10#2) mid 0b01#2, a⟩
  | .errRsvdPredictB7 mid a => ⟨packMid 0b100#3 mid 0b01#2, a⟩
  | .errRsvdUpdateB5 hi mid a => ⟨packMid (hi ++ 0b1#1) mid 0b10#2, a⟩
  | .errRsvdUpdateB6 b7 mid a => ⟨packMid (BitVec.ofBool b7 ++ 0b10#2) mid 0b10#2, a⟩
  | .errRsvdUpdateB7 mid a => ⟨packMid 0b100#3 mid 0b10#2, a⟩

/-! ## The transfer as one number -/

/-- The length of every command: one transfer of `8 + ADDR_W` bits (R69, R73). -/
def transferBits (c : Config) : Nat := 8 + c.addrW

/-- A command laid out as spec/opcode_table.json numbers its bits: the command byte is bits 7..0, and the address
operand, to which the table gives no bits, stands above it. Bits from `nbits` up are 0. -/
def tableCommand (nbits w : Nat) : Command :=
  let v := w % 2 ^ nbits
  ⟨BitVec.ofNat 8 v, v / 2 ^ 8⟩

/-- What the decoder reads from a table word, under the default `UNITS` for which the table's rows are written (R67).
The decoder refuses nothing (R64). -/
def decodeTableWord (nbits w : Nat) : Option Instr :=
  some (decode Units.default (tableCommand nbits w))

end Sys2Proof
end

