-- ==== Sys2Proof/Machine/State.lean ====
section
/-! DEFINITION. The state of the array as plain data (spec 10_state.md), the ports that carry its input and its output
(30_encoding.md R55), and the state after reset (70_reset_and_hazards.md R161).

A slot's state has the shape of the unit configured in it (R20), so `UNITS` and each unit's parameters are read off the
slots (`State.units`, Ops.lean); no command changes them (R33). -/

namespace Sys2Proof.Machine

/-! ## Counter tables -/

/-- A table of 2-bit counters (R29), held sparsely: the pairs (index, counter) of the entries that do not hold the reset
value 1, by rising index. An entry that is not listed holds `freshCounter` (log entry 3). -/
abbrev Table := List (Nat × Counter)

/-- Canonical from index `lo` on: indices rise from `lo`, stay below the size `n`, and no listed entry holds the value
that an unlisted one reads as. -/
def Table.wfFrom (n : Nat) : Nat → Table → Bool
  | _, [] => true
  | lo, (k, v) :: rest => decide (lo ≤ k) && decide (k < n) && decide (v ≠ freshCounter) && Table.wfFrom n (k + 1) rest

/-- The canonical form of a table of `n` entries: two canonical tables with equal entries are equal data. -/
def Table.wf (n : Nat) (t : Table) : Bool := Table.wfFrom n 0 t

/-! ## The units -/

/-- A BIM unit: its parameter `table_size` and its table `T[0 .. table_size-1]` (R22). -/
structure Bim where
  tableSize : Nat
  T : Table
deriving DecidableEq, Repr

/-- A GSH unit: its parameter `history_bits`, its table `T[0 .. 2^history_bits - 1]` and its history register `h` of
`history_bits` bits (R23, R24). The register is a number with the explicit mask of R83, as the spec writes it (R14). -/
structure Gsh where
  historyBits : Nat
  T : Table
  h : Nat
deriving DecidableEq, Repr

/-- A HYB unit: exactly its inner units, its selector table `S[0 .. table_size-1]` and its own history register `hh`
(R25). Its parameters are those of the inner units: `table_size` is `bim.tableSize`, `history_bits` is
`gsh.historyBits` (R8). -/
structure Hyb where
  bim : Bim
  gsh : Gsh
  S : Table
  hh : Nat
deriving DecidableEq, Repr

/-- The state of one slot: that of the unit configured in it. A slot configured `NONE` has no state (R20). -/
inductive Slot
  | none
  | bim (b : Bim)
  | gsh (g : Gsh)
  | hyb (y : Hyb)
deriving DecidableEq, Repr

/-! ## The ports (R55) -/

/-- What the pins show at one step. `reqReady` is the block's own output: its rate is left OPEN (R171, D13), so it is
data beside the host's pins and every value is covered (log entry 5). -/
structure PortInput where
  rst : Bool
  reqValid : Bool
  reqReady : Bool
  cmd : Byte
  addr : Addr
deriving DecidableEq, Repr

/-- The error codes; `0b11` is never produced (R66). -/
inductive ErrCode
  | ok
  | errOp
  | errUnit
deriving DecidableEq, Repr

/-- A response on the output port: `rsp_taken` and `rsp_err` (R65). -/
structure Response where
  taken : Bool
  err : ErrCode
deriving DecidableEq, Repr

/-! ## The machine -/

/-- The array. `u0` to `u3` are all its state (R20). `input` is what the ports will show, one entry a step, and `rsp` is
the output port: `none` is `rsp_valid = 0`, in which the other outputs have no value (R161, X5). Both are the model's own
fields, since a step has no other way to take a command and give a response (log entries 4 and 7). -/
structure State where
  u0 : Slot
  u1 : Slot
  u2 : Slot
  u3 : Slot
  input : List PortInput
  rsp : Option Response
deriving DecidableEq, Repr

/-- The machine never stops with a fault: "every step completes" (R171), an error is a response (R140). The type has no
constructor, and no meaning raises one. Safe. -/
inductive Fault
deriving DecidableEq, Repr

/-- The reasons for which a term gets no meaning. No `step` ends in one: the decoder never makes such a term. -/
inductive Refusal
  /-- Raised by an arm of `exec` that has no meaning yet: there is none now. Safe. -/
  | notModelled (mnemonic : String)
  /-- Raised by a meaning whose mnemonic names another kind than the slot's: no command of the block is that term, and
  the assembler "refuses a mismatch" (R70). Safe. -/
  | slotKindMismatch
deriving DecidableEq, Repr

/-! ## Construction and reset (R21, R160, R161) -/

/-- A BIM unit at construction: every entry 1 (R22). -/
def Bim.construct (tableSize : Nat) : Bim := { tableSize := tableSize, T := [] }

/-- A GSH unit at construction: every entry 1, `h` 0 (R23). -/
def Gsh.construct (historyBits : Nat) : Gsh := { historyBits := historyBits, T := [], h := freshHistory }

/-- A HYB unit at construction: its inner units at theirs, every selector entry 1, `hh` 0 (R25). -/
def Hyb.construct (historyBits tableSize : Nat) : Hyb :=
  { bim := Bim.construct tableSize, gsh := Gsh.construct historyBits, S := [], hh := freshHistory }

/-- The construction state of a slot (R161). -/
def Slot.construct : UnitConfig → Slot
  | .none => .none
  | .bim n => .bim (Bim.construct n)
  | .gsh hb => .gsh (Gsh.construct hb)
  | .hyb hb n => .hyb (Hyb.construct hb n)

/-- The block configured by `u`, right after reset, with nothing on its ports (R161, R164). -/
def State.construct (u : Units) : State :=
  { u0 := Slot.construct u.u0, u1 := Slot.construct u.u1, u2 := Slot.construct u.u2, u3 := Slot.construct u.u3
    input := [], rsp := none }

/-- The machine right after reset under the default configuration (R11, R161). -/
def State.reset : State := State.construct Units.default

end Sys2Proof.Machine
end

