-- ==== Sys2Proof/Machine/Flags.lean ====
section
/-! DEFINITION. The block has no flags (spec 10_state.md R32). What it computes from a counter is the prediction bit and
the counter's next value (40_counter_primitives.md R75 to R80); the bits of a response's error code stand here too. -/

namespace Sys2Proof.Machine

/-- `ctr_predict(c) = (c > 1)` (R76). -/
def ctrPredict (c : Counter) : Bool := decide (1 < c.toNat)

/-- `sat_inc(c) = min(c + 1, 3)` (R77). -/
def satInc (c : Counter) : Counter := BitVec.ofNat 2 (min (c.toNat + 1) 3)

/-- `sat_dec(c) = max(c - 1, 0)`, the difference taken over the integers (R78). -/
def satDec (c : Counter) : Counter := BitVec.ofNat 2 (max ((c.toNat : Int) - 1) 0).toNat

/-- `ctr_train(c, t)`: up on taken, down on not-taken (R79). -/
def ctrTrain (c : Counter) (t : Bool) : Counter := if t then satInc c else satDec c

/-- The two bits of `rsp_err` (R66). -/
def errBits : ErrCode → BitVec 2
  | .ok => 0b00#2
  | .errOp => 0b01#2
  | .errUnit => 0b10#2

end Sys2Proof.Machine
end

