-- ==== Sys2Proof/Machine/Operands.lean ====
section
/-! DEFINITION. How a command's operands become table indices, and the history shift (spec 40_counter_primitives.md R83 to
R88). The operands are the address, unchanged, the bit `t` and the slot number (30_encoding.md R63). -/

namespace Sys2Proof.Machine

/-- `bim_index(a, n) = a mod n`, of the whole address (R85). -/
def bimIndex (a : Addr) (n : Nat) : Nat := a % n

/-- `xor_index(a, h, n) = (a XOR h) mod n`: the XOR first, the narrower operand zero-extended, then the `mod` (R86). -/
def xorIndex (a : Addr) (h n : Nat) : Nat := (a ^^^ h) % n

/-- `hist_shift(h, t, hb) = ((h << 1) | t) mod 2^hb` (R83). -/
def histShift (h : Nat) (t : Bool) (hb : Nat) : Nat := ((h <<< 1) ||| t.toNat) % 2 ^ hb

end Sys2Proof.Machine
end

