-- ==== Sys2Proof/Machine/Ops.lean ====
section
/-! DEFINITION. The named operations on the state: the table primitives (spec 20_memory.md R43), slot access
(00_scope.md R15), the response, the error ending shared by every command that cannot run (60_exceptions.md R143), and
the assertion of `rst` (70_reset_and_hazards.md R160).

The block has no exception in the processor sense (R140): nothing is saved, no mode changes, no vector exists, and there is
no return (R148). `raiseErr` is the one shared operation that stands in its place. -/

namespace Sys2Proof.Machine

/-! ## Table primitives (R43) -/

/-- `MemRead(tbl, i)`. -/
def memRead : Table → Nat → Counter
  | [], _ => freshCounter
  | (k, v) :: rest, i => if k = i then v else memRead rest i

/-- Put a listed entry at its place by rising index. -/
def insertCell (i : Nat) (v : Counter) : Table → Table
  | [] => [(i, v)]
  | (k, w) :: rest => if i < k then (i, v) :: (k, w) :: rest else (k, w) :: insertCell i v rest

/-- Take an entry off the list, so that it reads as `freshCounter`. -/
def eraseCell (i : Nat) : Table → Table
  | [] => []
  | (k, w) :: rest => if k = i then eraseCell i rest else (k, w) :: eraseCell i rest

/-- `MemWrite(tbl, i, v)`, keeping the canonical form: a value an unlisted entry reads as is not listed. -/
def memWrite (t : Table) (i : Nat) (v : Counter) : Table :=
  if v = freshCounter then eraseCell i t else insertCell i v (eraseCell i t)

/-! ## Slots and configuration (R15, R20) -/

/-- `U[s]`. -/
def State.slot (s : State) : SlotId → Slot
  | .u0 => s.u0
  | .u1 => s.u1
  | .u2 => s.u2
  | .u3 => s.u3

/-- `U[s] <- v`: one slot changes, all else stays (R136). -/
def State.setSlot (s : State) (sl : SlotId) (v : Slot) : State :=
  match sl with
  | .u0 => { s with u0 := v }
  | .u1 => { s with u1 := v }
  | .u2 => { s with u2 := v }
  | .u3 => { s with u3 := v }

/-- What a slot is configured as, read off its state. -/
def Slot.config : Slot → UnitConfig
  | .none => .none
  | .bim b => .bim b.tableSize
  | .gsh g => .gsh g.historyBits
  | .hyb y => .hyb y.gsh.historyBits y.bim.tableSize

/-- The configuration `UNITS` of the block (R11, R33). -/
def State.units (s : State) : Units :=
  { u0 := s.u0.config, u1 := s.u1.config, u2 := s.u2.config, u3 := s.u3.config }

/-! ## How a command ends -/

/-- `rsp <- (taken, err)` (R15, R65). -/
def State.respond (s : State) (taken : Bool) (err : ErrCode) : State :=
  { s with rsp := some ⟨taken, err⟩ }

/-- No response at this step: `rsp_valid = 0`. -/
def State.silent (s : State) : State := { s with rsp := none }

/-- `raise Err(code)`: respond `(0, code)`, read and write no state (R143). -/
def raiseErr (code : ErrCode) (s : State) : Host.Outcome State Fault Refusal :=
  .next (s.respond false code)

/-- A command whose mnemonic names a kind its slot does not have is no command of the block (R70). -/
def refuseKind : Host.Outcome State Fault Refusal := .refused .slotKindMismatch

/-! ## Reset and elaboration -/

/-- Asserting `rst` puts every slot into its construction state (R160, R161). `rsp_valid` is 0 and no command is accepted. -/
def assertReset (s : State) : State :=
  { s with
    u0 := Slot.construct s.u0.config
    u1 := Slot.construct s.u1.config
    u2 := Slot.construct s.u2.config
    u3 := Slot.construct s.u3.config
    rsp := none }

/-- Elaboration followed by the one boot reset: a configuration outside R145 is refused, and no block exists for it. -/
def elaborate (c : Config) : Option State :=
  if c.ok then some (State.construct c.units) else none

end Sys2Proof.Machine
end

