-- ==== Sys2Proof/Machine/Bimodal.lean ====
section
/-! DEFINITION. The bimodal predictor (spec 41_bimodal.md): the unit's two operations, which the HYB unit's inner BIM shares
(43_hybrid.md R116), and the meanings of PREDICT.BIM and UPDATE.BIM. -/

namespace Sys2Proof.Machine

/-- The body of PREDICT.BIM (R90). -/
def bimPredict (b : Bim) (a : Addr) : Bool :=
  ctrPredict (memRead b.T (bimIndex a b.tableSize))

/-- The write of UPDATE.BIM (R91). -/
def bimUpdate (b : Bim) (a : Addr) (t : Bool) : Bim :=
  let i := bimIndex a b.tableSize
  { b with T := memWrite b.T i (ctrTrain (memRead b.T i) t) }

/-- PREDICT.BIM (R90): the response is the prediction, nothing is written. -/
def execPredictBim (sl : SlotId) (_ign : Bool) (a : Addr) (s : State) : Host.Outcome State Fault Refusal :=
  match s.slot sl with
  | .bim b => .next (s.respond (bimPredict b a) .ok)
  | .none => refuseKind
  | .gsh _ => refuseKind
  | .hyb _ => refuseKind

/-- UPDATE.BIM (R91): train the entry, respond with the pre-state prediction (R132). -/
def execUpdateBim (sl : SlotId) (t : Bool) (a : Addr) (s : State) : Host.Outcome State Fault Refusal :=
  match s.slot sl with
  | .bim b => .next ((s.setSlot sl (.bim (bimUpdate b a t))).respond (bimPredict b a) .ok)
  | .none => refuseKind
  | .gsh _ => refuseKind
  | .hyb _ => refuseKind

end Sys2Proof.Machine
end

