-- ==== Sys2Proof/Machine/Control.lean ====
section
/-! DEFINITION. The commands of no predictor family: NOP (spec 44_control.md R131), PREDICT and UPDATE to a slot configured
`NONE` (60_exceptions.md R142), and the malformed commands (R141). Each error ends in `raiseErr` (R143). -/

namespace Sys2Proof.Machine

/-- NOP (R131): responds `(0, OK)`, whatever its ignored bits hold. -/
def execNop (_ign : BitVec 6) (_a : Addr) (s : State) : Host.Outcome State Fault Refusal :=
  .next (s.respond false .ok)

/-- PREDICT to a slot configured `NONE`: `ERR_UNIT` (R142). -/
def execPredictNone (sl : SlotId) (_ign : Bool) (_a : Addr) (s : State) : Host.Outcome State Fault Refusal :=
  match s.slot sl with
  | .none => raiseErr .errUnit s
  | .bim _ => refuseKind
  | .gsh _ => refuseKind
  | .hyb _ => refuseKind

/-- UPDATE to a slot configured `NONE`: `ERR_UNIT` (R142). -/
def execUpdateNone (sl : SlotId) (_t : Bool) (_a : Addr) (s : State) : Host.Outcome State Fault Refusal :=
  match s.slot sl with
  | .none => raiseErr .errUnit s
  | .bim _ => refuseKind
  | .gsh _ => refuseKind
  | .hyb _ => refuseKind

/-- `op = 0b11`: `ERR_OP` (R141). -/
def execErrOp11 (_ign : BitVec 6) (_a : Addr) (s : State) : Host.Outcome State Fault Refusal :=
  raiseErr .errOp s

/-- PREDICT with `cmd[5]` set: `ERR_OP` (R61, R141). -/
def execErrRsvdPredictB5 (_hi : BitVec 2) (_mid : BitVec 3) (_a : Addr) (s : State) : Host.Outcome State Fault Refusal :=
  raiseErr .errOp s

/-- PREDICT with `cmd[6]` set: `ERR_OP` (R61, R141). -/
def execErrRsvdPredictB6 (_b7 : Bool) (_mid : BitVec 3) (_a : Addr) (s : State) : Host.Outcome State Fault Refusal :=
  raiseErr .errOp s

/-- PREDICT with `cmd[7]` set: `ERR_OP` (R61, R141). -/
def execErrRsvdPredictB7 (_mid : BitVec 3) (_a : Addr) (s : State) : Host.Outcome State Fault Refusal :=
  raiseErr .errOp s

/-- UPDATE with `cmd[5]` set: `ERR_OP` (R61, R141). -/
def execErrRsvdUpdateB5 (_hi : BitVec 2) (_mid : BitVec 3) (_a : Addr) (s : State) : Host.Outcome State Fault Refusal :=
  raiseErr .errOp s

/-- UPDATE with `cmd[6]` set: `ERR_OP` (R61, R141). -/
def execErrRsvdUpdateB6 (_b7 : Bool) (_mid : BitVec 3) (_a : Addr) (s : State) : Host.Outcome State Fault Refusal :=
  raiseErr .errOp s

/-- UPDATE with `cmd[7]` set: `ERR_OP` (R61, R141). -/
def execErrRsvdUpdateB7 (_mid : BitVec 3) (_a : Addr) (s : State) : Host.Outcome State Fault Refusal :=
  raiseErr .errOp s

end Sys2Proof.Machine
end

