-- ==== Sys2Proof/Machine/Gshare.lean ====
section
/-! DEFINITION. The GShare predictor (spec 42_gshare.md): the unit's two operations, which the HYB unit's inner GSH shares
(43_hybrid.md R116), and the meanings of PREDICT.GSH and UPDATE.GSH. -/

namespace Sys2Proof.Machine

/-- The index a GSH unit reads and trains: `xor_index(a, h, 2^hb)` (R100, R101). -/
def gshIndex (g : Gsh) (a : Addr) : Nat := xorIndex a g.h (2 ^ g.historyBits)

/-- The body of PREDICT.GSH (R100). -/
def gshPredict (g : Gsh) (a : Addr) : Bool :=
  ctrPredict (memRead g.T (gshIndex g a))

/-- The writes of UPDATE.GSH (R101): the entry at the index of the history BEFORE this update, then the history. -/
def gshUpdate (g : Gsh) (a : Addr) (t : Bool) : Gsh :=
  let i := gshIndex g a
  { g with
    T := memWrite g.T i (ctrTrain (memRead g.T i) t)
    h := histShift g.h t g.historyBits }

/-- PREDICT.GSH (R100): the response is the prediction, nothing is written, the history is not shifted. -/
def execPredictGsh (sl : SlotId) (_ign : Bool) (a : Addr) (s : State) : Host.Outcome State Fault Refusal :=
  match s.slot sl with
  | .gsh g => .next (s.respond (gshPredict g a) .ok)
  | .none => refuseKind
  | .bim _ => refuseKind
  | .hyb _ => refuseKind

/-- UPDATE.GSH (R101): train the entry, shift the history, respond with the pre-state prediction (R132). -/
def execUpdateGsh (sl : SlotId) (t : Bool) (a : Addr) (s : State) : Host.Outcome State Fault Refusal :=
  match s.slot sl with
  | .gsh g => .next ((s.setSlot sl (.gsh (gshUpdate g a t))).respond (gshPredict g a) .ok)
  | .none => refuseKind
  | .bim _ => refuseKind
  | .hyb _ => refuseKind

end Sys2Proof.Machine
end

