-- ==== Sys2Proof/Machine/Hybrid.lean ====
section
/-! DEFINITION. The hybrid (tournament) predictor (spec 43_hybrid.md): selector index and decision, the multiplexer, the three
writing steps of UPDATE.HYB, and the meanings of PREDICT.HYB and UPDATE.HYB. -/

namespace Sys2Proof.Machine

/-- `sel_index(s, a) = xor_index(a, hh, n)`, with the HYB unit's own `hh` and `n = table_size` (R110, 90_conflicts.md C2). -/
def hybSelIndex (y : Hyb) (a : Addr) : Nat := xorIndex a y.hh y.bim.tableSize

/-- `favorG(s, a)`: the selector favors GShare in states 2 and 3 (R110). -/
def hybFavorG (y : Hyb) (a : Addr) : Bool := ctrPredict (memRead y.S (hybSelIndex y a))

/-- `hyb_predict(s, a)`: both inner units predict, each by its own index and history, and the multiplexer passes on the
favored one's prediction (R111, 90_conflicts.md C5). -/
def hybPredict (y : Hyb) (a : Addr) : Bool :=
  let pb := bimPredict y.bim a
  let pg := gshPredict y.gsh a
  if hybFavorG y a then pg else pb

/-- Step 2 of R112: on a misprediction (`p != t`) move the selector entry `si`, which held `sc`, away from the chosen unit
(R114). It moves when both inner units were wrong, too (R120). -/
def hybNudge (y : Hyb) (si : Nat) (sc : Counter) (g p t : Bool) : Hyb :=
  if p = t then y
  else { y with S := memWrite y.S si (if g then satDec sc else satInc sc) }

/-- Step 3 of R112: the HYB unit's own history, on every update (R115). -/
def hybAdvance (y : Hyb) (t : Bool) : Hyb :=
  { y with hh := histShift y.hh t y.gsh.historyBits }

/-- Step 4 of R112: both inner units learn, whichever was used (R116). -/
def hybForward (y : Hyb) (a : Addr) (t : Bool) : Hyb :=
  { y with bim := bimUpdate y.bim a t, gsh := gshUpdate y.gsh a t }

/-- The writes of UPDATE.HYB (R112). The four values of step 1 come from the pre-state (R113). -/
def hybUpdate (y : Hyb) (a : Addr) (t : Bool) : Hyb :=
  let si := hybSelIndex y a
  let sc := memRead y.S si
  let g := ctrPredict sc
  let p := hybPredict y a
  hybForward (hybAdvance (hybNudge y si sc g p t) t) a t

/-- PREDICT.HYB (R111): the response is the prediction, nothing is written. -/
def execPredictHyb (sl : SlotId) (_ign : Bool) (a : Addr) (s : State) : Host.Outcome State Fault Refusal :=
  match s.slot sl with
  | .hyb y => .next (s.respond (hybPredict y a) .ok)
  | .none => refuseKind
  | .bim _ => refuseKind
  | .gsh _ => refuseKind

/-- UPDATE.HYB (R112): the response is the re-derived prediction of the pre-state (R113, R132). -/
def execUpdateHyb (sl : SlotId) (t : Bool) (a : Addr) (s : State) : Host.Outcome State Fault Refusal :=
  match s.slot sl with
  | .hyb y => .next ((s.setSlot sl (.hyb (hybUpdate y a t))).respond (hybPredict y a) .ok)
  | .none => refuseKind
  | .bim _ => refuseKind
  | .gsh _ => refuseKind

end Sys2Proof.Machine
end

