-- ==== Sys2Proof/Machine/Dispatch.lean ====
section
/-! DEFINITION. One arm per command: the dispatch of spec 44_control.md R130. -/

namespace Sys2Proof.Machine

def exec (i : Instr) (s : State) : Host.Outcome State Fault Refusal :=
  match i with
  | .nop ign a => Sys2Proof.Machine.execNop ign a s
  | .predictBim sl ign a => Sys2Proof.Machine.execPredictBim sl ign a s
  | .updateBim sl t a => Sys2Proof.Machine.execUpdateBim sl t a s
  | .predictGsh sl ign a => Sys2Proof.Machine.execPredictGsh sl ign a s
  | .updateGsh sl t a => Sys2Proof.Machine.execUpdateGsh sl t a s
  | .predictHyb sl ign a => Sys2Proof.Machine.execPredictHyb sl ign a s
  | .updateHyb sl t a => Sys2Proof.Machine.execUpdateHyb sl t a s
  | .predictNone sl ign a => Sys2Proof.Machine.execPredictNone sl ign a s
  | .updateNone sl t a => Sys2Proof.Machine.execUpdateNone sl t a s
  | .errOp11 ign a => Sys2Proof.Machine.execErrOp11 ign a s
  | .errRsvdPredictB5 hi mid a => Sys2Proof.Machine.execErrRsvdPredictB5 hi mid a s
  | .errRsvdPredictB6 b7 mid a => Sys2Proof.Machine.execErrRsvdPredictB6 b7 mid a s
  | .errRsvdPredictB7 mid a => Sys2Proof.Machine.execErrRsvdPredictB7 mid a s
  | .errRsvdUpdateB5 hi mid a => Sys2Proof.Machine.execErrRsvdUpdateB5 hi mid a s
  | .errRsvdUpdateB6 b7 mid a => Sys2Proof.Machine.execErrRsvdUpdateB6 b7 mid a s
  | .errRsvdUpdateB7 mid a => Sys2Proof.Machine.execErrRsvdUpdateB7 mid a s

end Sys2Proof.Machine
end

