-- ==== Sys2Proof/Machine/Step.lean ====
section
/-! DEFINITION. One step of the array: take what the ports show, and run the accepted command, if any, as one atomic step
(spec 00_scope.md R16; 30_encoding.md R55; 44_control.md R130). After it, a run and its observation
(70_reset_and_hazards.md R172). -/

namespace Sys2Proof.Machine

/-- "A command is accepted when `req_valid` and `req_ready` are both 1 and `rst` is 0" (R55). -/
def PortInput.accepts (p : PortInput) : Bool := p.reqValid && p.reqReady && !p.rst

/-- The command the ports show. -/
def PortInput.command (p : PortInput) : Command := ⟨p.cmd, p.addr⟩

/-- The ports' values when the host offers `c` and the block accepts it. -/
def PortInput.accepted (c : Command) : PortInput :=
  { rst := false, reqValid := true, reqReady := true, cmd := c.cmd, addr := c.addr }

/-- One step. `rst` comes first (R160); an accepted command is decoded by R64 under the block's `UNITS` and run (R130); when
nothing is accepted, or the ports show nothing any more, the state stays and there is no response (log entry 6). -/
def step (s : State) : Host.Outcome State Fault Refusal :=
  match s.input with
  | [] => .next s.silent
  | p :: rest =>
    if p.rst then .next (assertReset { s with input := rest })
    else if p.accepts then exec (decode s.units p.command) { s with input := rest }
    else .next (State.silent { s with input := rest })

/-- The host offers `c` and the block accepts it at the next step. -/
def State.offer (s : State) (c : Command) : State :=
  { s with input := PortInput.accepted c :: s.input }

/-- The host offers the commands `cs`, one a step, before what the ports showed next. -/
def State.offers (s : State) (cs : List Command) : State :=
  { s with input := cs.map PortInput.accepted ++ s.input }

/-- `s` with a table word offered as the next command. The block fetches nothing: its commands come from the command port
(log entry 12). -/
def State.withFetchWord (s : State) (nbits w : Nat) : State :=
  s.offer (tableCommand nbits w)

/-- `k` steps: the responses in the order they were given, and the final state (R172). -/
def observe : Nat → State → List Response × State
  | 0, s => ([], s)
  | k + 1, s =>
    match step s with
    | .next s' => (s'.rsp.toList ++ (observe k s').1, (observe k s').2)
    | .fault _ => ([], s)
    | .refused _ => ([], s)

/-- The run of the command sequence `cs` from `s`, every command accepted in order (R49, R172). -/
def runCommands (s : State) (cs : List Command) : List Response × State :=
  observe cs.length (s.offers cs)

end Sys2Proof.Machine
end

