-- ==== Sys2Proof/Machine/Assembler.lean ====
section
/-! DEFINITION. The written form of commands (spec 30_encoding.md R70) and the pseudo-instruction OCCUR (R71): lines as data,
the assembler, and the reading of one line of text. -/

namespace Sys2Proof.Machine

/-- One line of the assembler's language (R70, R71). A suffix names a kind; it is checked and not encoded. -/
inductive AsmLine
  | nop
  | predict (suffix : Option Kind) (sl : SlotId) (a : Addr)
  | update (suffix : Option Kind) (sl : SlotId) (a : Addr) (t : Bool)
  | err (cmd : Byte) (a : Addr)
  | occur (sl : SlotId) (a : Addr) (t : Bool)
deriving DecidableEq, Repr

/-- "The assembler checks the suffix against `UNITS[s].kind` and refuses a mismatch" (R70). -/
def suffixFits (u : Units) (suffix : Option Kind) (sl : SlotId) : Bool :=
  match suffix with
  | none => true
  | some k => decide ((u.get sl).kind = some k)

/-- "A PREDICT assembles with `t = 0` and `rsvd = 0`" (R70). -/
def asmPredict (sl : SlotId) (a : Addr) : Command := ⟨packCmd 0b000#3 false (slotBits sl) 0b01#2, a⟩

/-- An UPDATE assembles with `rsvd = 0` (R70). -/
def asmUpdate (sl : SlotId) (a : Addr) (t : Bool) : Command := ⟨packCmd 0b000#3 t (slotBits sl) 0b10#2, a⟩

/-- The commands of one line, or a refusal: a suffix that does not fit, or an address outside `[0, 2^ADDR_W)` (R70). `OCCUR`
is a PREDICT and then the UPDATE (R71). NOP's address, which R70 does not write, is assembled as 0. -/
def assemble (c : Config) : AsmLine → Option (List Command)
  | .nop => some [⟨0x00#8, 0⟩]
  | .predict suffix sl a =>
    if addrFits c a && suffixFits c.units suffix sl then some [asmPredict sl a] else none
  | .update suffix sl a t =>
    if addrFits c a && suffixFits c.units suffix sl then some [asmUpdate sl a t] else none
  | .err cmd a => if addrFits c a then some [⟨cmd, a⟩] else none
  | .occur sl a t => if addrFits c a then some [asmPredict sl a, asmUpdate sl a t] else none

/-- The commands of a program: its lines' commands in order, refused if a line is. -/
def assembleAll (c : Config) : List AsmLine → Option (List Command)
  | [] => some []
  | l :: rest =>
    match assemble c l, assembleAll c rest with
    | some cs, some ds => some (cs ++ ds)
    | _, _ => none

/-! ## Reading one line of text (R70): words and commas, up to a `;` -/

/-- A word, if any letters were read. -/
def flushWord (w : List Char) : List (List Char) := if w = [] then [] else [w]

/-- The words and commas of a line; `w` holds the letters of the word being read. -/
def lineTokens : List Char → List Char → List (List Char)
  | [], w => flushWord w
  | ch :: rest, w =>
    if ch = ';' then flushWord w
    else if ch = ' ' then flushWord w ++ lineTokens rest []
    else if ch = ',' then flushWord w ++ [','] :: lineTokens rest []
    else lineTokens rest (w ++ [ch])

/-- The value of a digit in a number of base `base`. -/
def digitValue (base : Nat) (ch : Char) : Option Nat :=
  let n := ch.toNat
  let v := if 48 ≤ n ∧ n ≤ 57 then some (n - 48)
    else if 97 ≤ n ∧ n ≤ 102 then some (n - 87)
    else if 65 ≤ n ∧ n ≤ 70 then some (n - 55)
    else none
  match v with
  | some d => if d < base then some d else none
  | none => none

/-- The digits of a number, the first the most significant; `acc` is the value of those before. -/
def digitsValue (base acc : Nat) : List Char → Option Nat
  | [] => some acc
  | ch :: rest =>
    match digitValue base ch with
    | some d => digitsValue base (acc * base + d) rest
    | none => none

/-- A decimal or `0x` hexadecimal integer (R70). -/
def numberOfWord : List Char → Option Nat
  | [] => none
  | '0' :: 'x' :: [] => none
  | '0' :: 'x' :: d :: rest => digitsValue 16 0 (d :: rest)
  | d :: rest => digitsValue 10 0 (d :: rest)

/-- `u<s>` (R70). -/
def slotOfWord (w : List Char) : Option SlotId :=
  if w = ['u', '0'] then some .u0
  else if w = ['u', '1'] then some .u1
  else if w = ['u', '2'] then some .u2
  else if w = ['u', '3'] then some .u3
  else none

/-- `T` or `1`, `N` or `0` (R70). -/
def outcomeOfWord (w : List Char) : Option Bool :=
  if w = ['T'] ∨ w = ['1'] then some true
  else if w = ['N'] ∨ w = ['0'] then some false
  else none

/-- The operation a mnemonic names, and its suffix. -/
inductive AsmOp
  | nop
  | predict (suffix : Option Kind)
  | update (suffix : Option Kind)
  | err
  | occur
deriving DecidableEq, Repr

/-- The suffix of a mnemonic (R70). -/
def suffixOfWord (w : List Char) : Option (Option Kind) :=
  if w = [] then some none
  else if w = ".BIM".toList then some (some .bim)
  else if w = ".GSH".toList then some (some .gsh)
  else if w = ".HYB".toList then some (some .hyb)
  else none

/-- The mnemonics (R70, R71). That `OCCUR` takes no kind suffix, so that `OCCUR.BIM` is refused, is the model's choice: R70 lets
a mnemonic carry one, R71 writes none (DESIGN CHOICE, log entry 16). -/
def opOfWord (w : List Char) : Option AsmOp :=
  if w = "NOP".toList then some .nop
  else if w = "ERR".toList then some .err
  else if w = "OCCUR".toList then some .occur
  else if w.take 7 = "PREDICT".toList then (suffixOfWord (w.drop 7)).map .predict
  else if w.take 6 = "UPDATE".toList then (suffixOfWord (w.drop 6)).map .update
  else none

/-- The operands after the mnemonic. R70 gives no format or range for the `<cmd>` of an ERR line: the model reads a decimal or
`0x` hexadecimal integer, as for an address, and refuses 256 and above, which is no command byte (DESIGN CHOICE, log entry 16). -/
def parseOperands (op : AsmOp) (words : List (List Char)) : Option AsmLine :=
  match op, words with
  | .nop, [] => some .nop
  | .predict k, [u, [','], a] =>
    match slotOfWord u, numberOfWord a with
    | some sl, some n => some (.predict k sl n)
    | _, _ => none
  | .update k, [u, [','], a, [','], t] =>
    match slotOfWord u, numberOfWord a, outcomeOfWord t with
    | some sl, some n, some b => some (.update k sl n b)
    | _, _, _ => none
  | .err, [x, [','], a] =>
    match numberOfWord x, numberOfWord a with
    | some v, some n => if v < 2 ^ 8 then some (.err (BitVec.ofNat 8 v) n) else none
    | _, _ => none
  | .occur, [u, [','], a, [','], t] =>
    match slotOfWord u, numberOfWord a, outcomeOfWord t with
    | some sl, some n, some b => some (.occur sl n b)
    | _, _, _ => none
  | _, _ => none

/-- One line of text: `some []` for an empty line or a comment, one line of data for a command, `none` for anything else. -/
def parseLine (text : List Char) : Option (List AsmLine) :=
  match lineTokens text [] with
  | [] => some []
  | m :: words =>
    match opOfWord m with
    | none => none
    | some op => (parseOperands op words).map fun l => [l]

end Sys2Proof.Machine
end

