-- ==== Sys2Proof/Safety.lean ====
section
/-! DEFINITION. What a good state is and which states a run reaches, in the terms the statements use: the bounds and the
canonical form of every table and register (spec 10_state.md R24, R29), the hybrid's two invariants (43_hybrid.md R118,
R119), and the runs from reset (70_reset_and_hazards.md R163). -/

namespace Sys2Proof.Machine

/-- A BIM unit of a block that exists: `table_size >= 1`, its table in range and canonical (R22, R29, R145). -/
def Bim.wf (b : Bim) : Bool := decide (1 ≤ b.tableSize) && b.T.wf b.tableSize

/-- A GSH unit of a block that exists: `history_bits >= 1`, its table in range and canonical, and the register "never holds
a value of `2^history_bits` or more" (R23, R24, R145). -/
def Gsh.wf (g : Gsh) : Bool :=
  decide (1 ≤ g.historyBits) && g.T.wf (2 ^ g.historyBits) && decide (g.h < 2 ^ g.historyBits)

/-- A HYB unit of a block that exists (R24, R25, R29, R145). -/
def Hyb.wf (y : Hyb) : Bool :=
  y.bim.wf && y.gsh.wf && y.S.wf y.bim.tableSize && decide (y.hh < 2 ^ y.gsh.historyBits)

/-- A slot of a block that exists. -/
def Slot.wf : Slot → Bool
  | .none => true
  | .bim b => b.wf
  | .gsh g => g.wf
  | .hyb y => y.wf

/-- Every slot is one of a block that exists: what every rule of the spec assumes (R145), with the bounds of R24 and R29. -/
def State.wf (s : State) : Bool := s.u0.wf && s.u1.wf && s.u2.wf && s.u3.wf

/-- Every entry of a table holds the reset value 1. -/
def Table.AllOne (t : Table) : Prop := ∀ i, memRead t i = 1

/-- The reset value of every piece of a slot's state, by the table of R161. -/
def Slot.Fresh : Slot → Prop
  | .none => True
  | .bim b => b.T.AllOne
  | .gsh g => g.T.AllOne ∧ g.h = 0
  | .hyb y => y.bim.T.AllOne ∧ y.gsh.T.AllOne ∧ y.gsh.h = 0 ∧ y.S.AllOne ∧ y.hh = 0

/-- `hh = gsh.h` in a HYB slot (R118). -/
def Slot.EqualHistories : Slot → Prop
  | .hyb y => y.hh = y.gsh.h
  | .none => True
  | .bim _ => True
  | .gsh _ => True

/-- Every selector entry of a HYB slot is 1 or 2 (R119). -/
def Slot.SelectorIsToggle : Slot → Prop
  | .hyb y => ∀ i, memRead y.S i = 1 ∨ memRead y.S i = 2
  | .none => True
  | .bim _ => True
  | .gsh _ => True

/-- A value the host can present: the address is on the `ADDR_W`-bit bus (R62, R146). -/
def PortInput.fits (c : Config) (p : PortInput) : Bool := addrFits c p.addr

/-- The states that runs of a block configured by `c` pass through. A run starts right after reset, whatever the ports then
show (R163), and "the model admits no such configuration" as R9 and R145 shut out. -/
inductive Reachable (c : Config) : State → Prop
  | afterReset (input : List PortInput) (hc : c.ok = true) (hin : input.all (PortInput.fits c) = true) :
      Reachable c { State.construct c.units with input := input }
  | afterStep (s s' : State) (hs : Reachable c s) (h : step s = .next s') : Reachable c s'

/-- A command that trains slot `sl` of a block configured by `u`: an UPDATE to it that decodes without error (R21, R93). -/
def trains (u : Units) (sl : SlotId) (c : Command) : Bool :=
  match decode u c with
  | .updateBim sl' _ _ => decide (sl' = sl)
  | .updateGsh sl' _ _ => decide (sl' = sl)
  | .updateHyb sl' _ _ => decide (sl' = sl)
  | .nop _ _ => false
  | .predictBim _ _ _ => false
  | .predictGsh _ _ _ => false
  | .predictHyb _ _ _ => false
  | .predictNone _ _ _ => false
  | .updateNone _ _ _ => false
  | .errOp11 _ _ => false
  | .errRsvdPredictB5 _ _ _ => false
  | .errRsvdPredictB6 _ _ _ => false
  | .errRsvdPredictB7 _ _ => false
  | .errRsvdUpdateB5 _ _ _ => false
  | .errRsvdUpdateB6 _ _ _ => false
  | .errRsvdUpdateB7 _ _ => false

end Sys2Proof.Machine
end

