-- ==== Sys2Proof/Certificates/Slice0/Obligations.lean ====
section
/-! DEFINITION. The statements about the branch predictor array. Counters, indices and histories are written here as the
arithmetic of the spec on natural numbers, beside the model's own functions for reading an entry (`memRead`) and a slot
(`State.slot`). `step (s.offer x)` is the step in which the command `x` is accepted. -/

open Sys2Proof Sys2Proof.Machine

/-! ## Encoding -/

/-- 30_encoding.md R57, R67: no bit of a command is lost in its encoding, for every command of every block. -/
def Obligations.DecodeOfEncodeIsTheCommand : Prop :=
  ∀ (c : Config) (i : Instr), i.wellFormed c = true → decode c.units (encode i) = i

/-- 30_encoding.md R64: every byte and every address decode to exactly one command, which encodes back to them. -/
def Obligations.EncodeOfDecodeIsTheTransfer : Prop :=
  ∀ (c : Config) (x : Command), addrFits c x.addr = true →
    encode (decode c.units x) = x ∧ (decode c.units x).wellFormed c = true

/-- 30_encoding.md R64: the decoder's procedure, line by line, with the fields of R57 as arithmetic on the byte. -/
def Obligations.DecodeIsTheProcedureOfTheSpec : Prop :=
  ∀ (u : Units) (sl : SlotId) (x : Command), x.cmd.toNat / 4 % 4 = (slotBits sl).toNat →
    let op := x.cmd.toNat % 4
    let t := decide (x.cmd.toNat / 16 % 2 = 1)
    let rsvd := x.cmd.toNat / 32
    (op = 0 → ∃ ign, decode u x = .nop ign x.addr) ∧
    (op ≠ 0 → (op = 3 ∨ rsvd ≠ 0) → ∀ s, exec (decode u x) s = .next (s.respond false .errOp)) ∧
    (op = 1 ∨ op = 2 → rsvd = 0 → u.get sl = .none →
      ∀ s, s.slot sl = .none → exec (decode u x) s = .next (s.respond false .errUnit)) ∧
    (op = 1 → rsvd = 0 →
      (u.get sl = .none → decode u x = .predictNone sl t x.addr) ∧
      (∀ n, u.get sl = .bim n → decode u x = .predictBim sl t x.addr) ∧
      (∀ hb, u.get sl = .gsh hb → decode u x = .predictGsh sl t x.addr) ∧
      (∀ hb n, u.get sl = .hyb hb n → decode u x = .predictHyb sl t x.addr)) ∧
    (op = 2 → rsvd = 0 →
      (u.get sl = .none → decode u x = .updateNone sl t x.addr) ∧
      (∀ n, u.get sl = .bim n → decode u x = .updateBim sl t x.addr) ∧
      (∀ hb, u.get sl = .gsh hb → decode u x = .updateGsh sl t x.addr) ∧
      (∀ hb n, u.get sl = .hyb hb n → decode u x = .updateHyb sl t x.addr))

/-- 30_encoding.md R72, its eight examples. -/
def Obligations.EncodingExamples : Prop :=
  ∀ w : Nat, 5 ≤ w →
    let c : Config := ⟨w, Units.default⟩
    assemble c (.predict none .u0 16) = some [⟨0x01#8, 16⟩] ∧
    assemble c (.update none .u0 16 false) = some [⟨0x02#8, 16⟩] ∧
    assemble c (.update none .u1 5 true) = some [⟨0x16#8, 5⟩] ∧
    assemble c (.update none .u2 9 true) = some [⟨0x1A#8, 9⟩] ∧
    (∃ a, assemble c .nop = some [⟨0x00#8, a⟩]) ∧
    (∀ a, decode c.units ⟨0x00#8, a⟩ = .nop 0 a) ∧
    (∀ (s : State) (a : Addr), s.units = c.units →
      step (s.offer ⟨0x23#8, a⟩) = .next (s.respond false .errOp) ∧
      step (s.offer ⟨0x21#8, a⟩) = .next (s.respond false .errOp) ∧
      step (s.offer ⟨0x0D#8, a⟩) = .next (s.respond false .errUnit))

/-- spec/opcode_table.json: the match word of each of its 16 rows decodes to the row's command. -/
def Obligations.TableWordsDecode : Prop :=
  decodeTableWord 8 0x00 = some (.nop 0 0) ∧
  decodeTableWord 8 0x01 = some (.predictBim .u0 false 0) ∧
  decodeTableWord 8 0x02 = some (.updateBim .u0 false 0) ∧
  decodeTableWord 8 0x05 = some (.predictGsh .u1 false 0) ∧
  decodeTableWord 8 0x06 = some (.updateGsh .u1 false 0) ∧
  decodeTableWord 8 0x09 = some (.predictHyb .u2 false 0) ∧
  decodeTableWord 8 0x0A = some (.updateHyb .u2 false 0) ∧
  decodeTableWord 8 0x0D = some (.predictNone .u3 false 0) ∧
  decodeTableWord 8 0x0E = some (.updateNone .u3 false 0) ∧
  decodeTableWord 8 0x03 = some (.errOp11 0 0) ∧
  decodeTableWord 8 0x21 = some (.errRsvdPredictB5 0 0 0) ∧
  decodeTableWord 8 0x41 = some (.errRsvdPredictB6 false 0 0) ∧
  decodeTableWord 8 0x81 = some (.errRsvdPredictB7 0 0) ∧
  decodeTableWord 8 0x22 = some (.errRsvdUpdateB5 0 0 0) ∧
  decodeTableWord 8 0x42 = some (.errRsvdUpdateB6 false 0 0) ∧
  decodeTableWord 8 0x82 = some (.errRsvdUpdateB7 0 0)

/-- 30_encoding.md R68: the ignored bits (`cmd[7:2]` and the address of a NOP, `cmd[4]` of a PREDICT) change nothing. -/
def Obligations.IgnoredBitsHaveNoEffect : Prop :=
  ∀ (s : State) (x x' : Command),
    (x.cmd.toNat % 4 = 0 → x'.cmd.toNat % 4 = 0 → step (s.offer x) = step (s.offer x')) ∧
    (x.cmd.toNat % 4 = 1 → x'.cmd.toNat % 4 = 1 → x.addr = x'.addr →
      x.cmd.toNat / 4 % 4 = x'.cmd.toNat / 4 % 4 → x.cmd.toNat / 32 = x'.cmd.toNat / 32 →
      step (s.offer x) = step (s.offer x'))

/-- 30_encoding.md R70: a PREDICT and an UPDATE line with an address on the bus and with no suffix or the slot's kind assemble,
and to what; a raw line and NOP assemble; a suffix of another kind and an address off the bus are refused; no line but ERR gives
a reserved encoding. -/
def Obligations.AssembledCommands : Prop :=
  ∀ (c : Config),
    (∀ k sl a, a < 2 ^ c.addrW → k = none ∨ (c.units.get sl).kind = k →
      (assemble c (.predict k sl a)).map (List.map fun x => (x.cmd.toNat, x.addr)) =
        some [(1 + 4 * (slotBits sl).toNat, a)]) ∧
    (∀ k sl a t, a < 2 ^ c.addrW → k = none ∨ (c.units.get sl).kind = k →
      (assemble c (.update k sl a t)).map (List.map fun x => (x.cmd.toNat, x.addr)) =
        some [(2 + 4 * (slotBits sl).toNat + 16 * t.toNat, a)]) ∧
    (∀ b a, a < 2 ^ c.addrW → assemble c (.err b a) = some [⟨b, a⟩]) ∧
    (∃ a, assemble c .nop = some [⟨0x00#8, a⟩]) ∧
    (∀ k sl a t, (c.units.get sl).kind ≠ some k →
      assemble c (.predict (some k) sl a) = none ∧ assemble c (.update (some k) sl a t) = none) ∧
    (∀ k sl a t b, 2 ^ c.addrW ≤ a →
      assemble c (.predict k sl a) = none ∧ assemble c (.update k sl a t) = none ∧
      assemble c (.err b a) = none ∧ assemble c (.occur sl a t) = none) ∧
    (∀ l cs x, (∀ b a, l ≠ .err b a) → assemble c l = some cs → x ∈ cs →
      x.cmd.toNat % 4 ≠ 3 ∧ x.cmd.toNat / 32 = 0 ∧ x.addr < 2 ^ c.addrW)

/-- 30_encoding.md R71: OCCUR is the PREDICT and then the UPDATE. -/
def Obligations.OccurIsPredictThenUpdate : Prop :=
  ∀ (c : Config) (sl : SlotId) (a : Addr) (t : Bool),
    assemble c (.occur sl a t) = assembleAll c [.predict none sl a, .update none sl a t]

/-! ## The step -/

/-- 30_encoding.md R55, 44_control.md R130: a step with an accepted command runs the command its byte and address decode to,
on the state with that transfer taken. That `withFetchWord` offers its word as the next command on the port, so that the next
step runs it, is the model's choice (log entry 12). -/
def Obligations.StepRunsTheAcceptedCommand : Prop :=
  (∀ (s : State) (p : PortInput) (rest : List PortInput), s.input = p :: rest →
    p.rst = false → p.reqValid = true → p.reqReady = true →
    step s = exec (decode s.units ⟨p.cmd, p.addr⟩) { s with input := rest }) ∧
  (∀ (s : State) (nbits w : Nat), step (s.withFetchWord nbits w) = exec (decode s.units (tableCommand nbits w)) s)

/-- 44_control.md R130: every accepted command, on every state, has a next state and one response. -/
def Obligations.AcceptedCommandHasNextStateAndResponse : Prop :=
  ∀ (s : State) (p : PortInput) (rest : List PortInput), s.input = p :: rest →
    p.rst = false → p.reqValid = true → p.reqReady = true →
    ∃ t r, step s = exec (decode s.units ⟨p.cmd, p.addr⟩) { s with input := rest } ∧
      step s = .next t ∧ t.rsp = some r ∧ t.input = rest

/-- 70_reset_and_hazards.md R171 and 30_encoding.md R56: every step completes, and it gives a response exactly when it accepts
a command (R55). That an idle step gives a next state is the model's choice (log entry 6). -/
def Obligations.EveryStepCompletes : Prop :=
  ∀ s : State, ∃ t, step s = .next t ∧
    (t.rsp ≠ none ↔ ∃ p rest, s.input = p :: rest ∧ p.rst = false ∧ p.reqValid = true ∧ p.reqReady = true)

/-- 70_reset_and_hazards.md R161: after `rst`, and after construction, every piece of state has its reset value and there is no
response; the configuration is what it was. -/
def Obligations.ResetGivesEveryStateItsValue : Prop :=
  (∀ (s : State) (p : PortInput) (rest : List PortInput), s.input = p :: rest → p.rst = true →
    ∃ t, step s = .next t ∧ t.units = s.units ∧ t.input = rest ∧ t.rsp = none ∧ ∀ sl, (t.slot sl).Fresh) ∧
  (∀ u : Units, (State.construct u).units = u ∧ (State.construct u).rsp = none ∧
    ∀ sl, ((State.construct u).slot sl).Fresh)

/-- The machine after reset is the array of the default configuration of 00_scope.md R11, each slot at its construction values
(70_reset_and_hazards.md R161), with no response. That `State.reset` takes the default configuration is the model's choice (log
entry 2), and so is that nothing stands on its ports (log entry 4). -/
def Obligations.ResetIsTheDefaultArray : Prop :=
  State.reset.slot .u0 = .bim (Bim.construct 1024) ∧
  State.reset.slot .u1 = .gsh (Gsh.construct 10) ∧
  State.reset.slot .u2 = .hyb (Hyb.construct 10 1024) ∧
  State.reset.slot .u3 = .none ∧
  State.reset.rsp = none ∧ State.reset.input = []

/-- The model's choice (log entry 6): a step in which no command is accepted and `rst` is 0 leaves the slots and gives no
response. -/
def Obligations.IdleStepKeepsTheState : Prop :=
  (∀ s : State, s.input = [] → step s = .next { s with rsp := none }) ∧
  (∀ (s : State) (p : PortInput) (rest : List PortInput), s.input = p :: rest → p.rst = false →
    (p.reqValid = false ∨ p.reqReady = false) → step s = .next { s with input := rest, rsp := none })

/-! ## The commands' results -/

/-- 44_control.md R131: NOP. -/
def Obligations.NopResult : Prop :=
  (∀ (s : State) (ign : BitVec 6) (a : Addr), exec (.nop ign a) s = .next { s with rsp := some ⟨false, .ok⟩ }) ∧
  (∀ (u : Units) (x : Command), x.cmd.toNat % 4 = 0 → ∃ ign, decode u x = .nop ign x.addr)

/-- 41_bimodal.md R90: PREDICT.BIM. -/
def Obligations.PredictBimResult : Prop :=
  ∀ (s : State) (sl : SlotId) (b : Bim) (x : Bool) (a : Addr), s.slot sl = .bim b →
    exec (.predictBim sl x a) s =
      .next { s with rsp := some ⟨decide (1 < (memRead b.T (a % b.tableSize)).toNat), .ok⟩ } ∧
    (encode (.predictBim sl x a)).cmd.toNat = 1 + 4 * (slotBits sl).toNat + 16 * x.toNat

/-- 41_bimodal.md R91: UPDATE.BIM trains one entry, leaves every other entry and every other slot, and responds with the
pre-state prediction. -/
def Obligations.UpdateBimResult : Prop :=
  ∀ (s : State) (sl : SlotId) (b : Bim) (t : Bool) (a : Addr), s.slot sl = .bim b →
    let i := a % b.tableSize
    let c := (memRead b.T i).toNat
    (encode (.updateBim sl t a)).cmd.toNat = 2 + 4 * (slotBits sl).toNat + 16 * t.toNat ∧
    ∃ s' b', exec (.updateBim sl t a) s = .next s' ∧
      s'.rsp = some ⟨decide (1 < c), .ok⟩ ∧
      s'.slot sl = .bim b' ∧
      b'.tableSize = b.tableSize ∧
      (memRead b'.T i).toNat = (if t then min (c + 1) 3 else c - 1) ∧
      (∀ j, j ≠ i → memRead b'.T j = memRead b.T j) ∧
      (∀ sl', sl' ≠ sl → s'.slot sl' = s.slot sl') ∧
      s'.input = s.input

/-- 42_gshare.md R100: PREDICT.GSH. -/
def Obligations.PredictGshResult : Prop :=
  ∀ (s : State) (sl : SlotId) (g : Gsh) (x : Bool) (a : Addr), s.slot sl = .gsh g →
    exec (.predictGsh sl x a) s =
      .next { s with rsp := some ⟨decide (1 < (memRead g.T ((a ^^^ g.h) % 2 ^ g.historyBits)).toNat), .ok⟩ } ∧
    (encode (.predictGsh sl x a)).cmd.toNat = 1 + 4 * (slotBits sl).toNat + 16 * x.toNat

/-- 42_gshare.md R101: UPDATE.GSH trains the entry at the index of the old history, then shifts the outcome in. -/
def Obligations.UpdateGshResult : Prop :=
  ∀ (s : State) (sl : SlotId) (g : Gsh) (t : Bool) (a : Addr), s.slot sl = .gsh g →
    let i := (a ^^^ g.h) % 2 ^ g.historyBits
    let c := (memRead g.T i).toNat
    (encode (.updateGsh sl t a)).cmd.toNat = 2 + 4 * (slotBits sl).toNat + 16 * t.toNat ∧
    ∃ s' g', exec (.updateGsh sl t a) s = .next s' ∧
      s'.rsp = some ⟨decide (1 < c), .ok⟩ ∧
      s'.slot sl = .gsh g' ∧
      g'.historyBits = g.historyBits ∧
      (memRead g'.T i).toNat = (if t then min (c + 1) 3 else c - 1) ∧
      (∀ j, j ≠ i → memRead g'.T j = memRead g.T j) ∧
      g'.h = (2 * g.h + t.toNat) % 2 ^ g.historyBits ∧
      (∀ sl', sl' ≠ sl → s'.slot sl' = s.slot sl') ∧
      s'.input = s.input

/-- 43_hybrid.md R110, R111: PREDICT.HYB passes on the favored inner unit's prediction. -/
def Obligations.PredictHybResult : Prop :=
  ∀ (s : State) (sl : SlotId) (y : Hyb) (x : Bool) (a : Addr), s.slot sl = .hyb y →
    let sc := (memRead y.S ((a ^^^ y.hh) % y.bim.tableSize)).toNat
    let pb := decide (1 < (memRead y.bim.T (a % y.bim.tableSize)).toNat)
    let pg := decide (1 < (memRead y.gsh.T ((a ^^^ y.gsh.h) % 2 ^ y.gsh.historyBits)).toNat)
    exec (.predictHyb sl x a) s = .next { s with rsp := some ⟨if 1 < sc then pg else pb, .ok⟩ } ∧
    (encode (.predictHyb sl x a)).cmd.toNat = 1 + 4 * (slotBits sl).toNat + 16 * x.toNat

/-- 43_hybrid.md R112 to R116: UPDATE.HYB. Everything is computed from the pre-state `y`; the selector entry moves on a
misprediction only, the two histories and the two inner entries always. -/
def Obligations.UpdateHybResult : Prop :=
  ∀ (s : State) (sl : SlotId) (y : Hyb) (t : Bool) (a : Addr), s.slot sl = .hyb y →
    let n := y.bim.tableSize
    let m := 2 ^ y.gsh.historyBits
    let si := (a ^^^ y.hh) % n
    let bi := a % n
    let gi := (a ^^^ y.gsh.h) % m
    let sc := (memRead y.S si).toNat
    let bc := (memRead y.bim.T bi).toNat
    let gc := (memRead y.gsh.T gi).toNat
    let p := if 1 < sc then decide (1 < gc) else decide (1 < bc)
    (encode (.updateHyb sl t a)).cmd.toNat = 2 + 4 * (slotBits sl).toNat + 16 * t.toNat ∧
    ∃ s' y', exec (.updateHyb sl t a) s = .next s' ∧
      s'.rsp = some ⟨p, .ok⟩ ∧
      s'.slot sl = .hyb y' ∧
      y'.bim.tableSize = n ∧ y'.gsh.historyBits = y.gsh.historyBits ∧
      (memRead y'.S si).toNat = (if p = t then sc else if 1 < sc then sc - 1 else min (sc + 1) 3) ∧
      (∀ j, j ≠ si → memRead y'.S j = memRead y.S j) ∧
      y'.hh = (2 * y.hh + t.toNat) % m ∧
      (memRead y'.bim.T bi).toNat = (if t then min (bc + 1) 3 else bc - 1) ∧
      (∀ j, j ≠ bi → memRead y'.bim.T j = memRead y.bim.T j) ∧
      (memRead y'.gsh.T gi).toNat = (if t then min (gc + 1) 3 else gc - 1) ∧
      (∀ j, j ≠ gi → memRead y'.gsh.T j = memRead y.gsh.T j) ∧
      y'.gsh.h = (2 * y.gsh.h + t.toNat) % m ∧
      (∀ sl', sl' ≠ sl → s'.slot sl' = s.slot sl') ∧
      s'.input = s.input

/-- 60_exceptions.md R142, R143: PREDICT and UPDATE to a slot configured `NONE` respond `(0, ERR_UNIT)` and change nothing. -/
def Obligations.UnconfiguredSlotResult : Prop :=
  ∀ (s : State) (sl : SlotId) (x : Bool) (a : Addr), s.slot sl = .none →
    exec (.predictNone sl x a) s = .next { s with rsp := some ⟨false, .errUnit⟩ } ∧
    exec (.updateNone sl x a) s = .next { s with rsp := some ⟨false, .errUnit⟩ } ∧
    (∀ cmd : Byte, (cmd.toNat % 4 = 1 ∨ cmd.toNat % 4 = 2) → cmd.toNat / 4 % 4 = (slotBits sl).toNat →
      cmd.toNat / 32 = 0 → step (s.offer ⟨cmd, a⟩) = .next { s with rsp := some ⟨false, .errUnit⟩ })

/-- 60_exceptions.md R141, R143: every malformed command responds `(0, ERR_OP)` and changes nothing; so does every byte with
`op = 0b11`, or with `op` `0b01` or `0b10` and reserved bits set. -/
def Obligations.MalformedCommandResult : Prop :=
  ∀ (s : State) (a : Addr) (ign : BitVec 6) (hi : BitVec 2) (b7 : Bool) (mid : BitVec 3) (cmd : Byte),
    let e : Host.Outcome State Fault Refusal := .next { s with rsp := some ⟨false, .errOp⟩ }
    exec (.errOp11 ign a) s = e ∧
    exec (.errRsvdPredictB5 hi mid a) s = e ∧
    exec (.errRsvdPredictB6 b7 mid a) s = e ∧
    exec (.errRsvdPredictB7 mid a) s = e ∧
    exec (.errRsvdUpdateB5 hi mid a) s = e ∧
    exec (.errRsvdUpdateB6 b7 mid a) s = e ∧
    exec (.errRsvdUpdateB7 mid a) s = e ∧
    (cmd.toNat % 4 = 3 → step (s.offer ⟨cmd, a⟩) = e) ∧
    (cmd.toNat % 4 = 1 ∨ cmd.toNat % 4 = 2 → cmd.toNat / 32 ≠ 0 → step (s.offer ⟨cmd, a⟩) = e)

/-- 60_exceptions.md R144: reserved bits are reported before an unconfigured slot, and a NOP reports neither, whatever slot its
ignored bits name. -/
def Obligations.ErrOpBeforeErrUnit : Prop :=
  ∀ (s : State) (sl : SlotId) (x : Command), s.slot sl = .none → x.cmd.toNat / 4 % 4 = (slotBits sl).toNat →
    (x.cmd.toNat % 4 ≠ 0 → x.cmd.toNat % 4 = 3 ∨ x.cmd.toNat / 32 ≠ 0 →
      step (s.offer x) = .next { s with rsp := some ⟨false, .errOp⟩ }) ∧
    (x.cmd.toNat % 4 = 0 → step (s.offer x) = .next { s with rsp := some ⟨false, .ok⟩ })

/-- The model's choice (log entry 10), after 30_encoding.md R70: a term whose kind is not the slot's is refused by name. No step
meets one (`EveryStepCompletes`). -/
def Obligations.MnemonicOfAnotherKindIsRefused : Prop :=
  ∀ (s : State) (sl : SlotId) (x : Bool) (a : Addr),
    ((∀ b, s.slot sl ≠ .bim b) →
      exec (.predictBim sl x a) s = .refused .slotKindMismatch ∧ exec (.updateBim sl x a) s = .refused .slotKindMismatch) ∧
    ((∀ g, s.slot sl ≠ .gsh g) →
      exec (.predictGsh sl x a) s = .refused .slotKindMismatch ∧ exec (.updateGsh sl x a) s = .refused .slotKindMismatch) ∧
    ((∀ y, s.slot sl ≠ .hyb y) →
      exec (.predictHyb sl x a) s = .refused .slotKindMismatch ∧ exec (.updateHyb sl x a) s = .refused .slotKindMismatch) ∧
    (s.slot sl ≠ .none →
      exec (.predictNone sl x a) s = .refused .slotKindMismatch ∧ exec (.updateNone sl x a) s = .refused .slotKindMismatch)

/-! ## Frames and whole-machine rules -/

/-- 10_state.md R21, the frame of NOP, PREDICT.BIM, PREDICT.GSH, PREDICT.HYB, PREDICT.NONE, UPDATE.NONE and the seven ERR_OP
commands: when the machine goes on, only the response differs. -/
def Obligations.NonTrainingCommandsChangeTheResponseOnly : Prop :=
  ∀ (i : Instr) (s s' : State), exec i s = .next s' →
    (∀ sl t a, i ≠ .updateBim sl t a) → (∀ sl t a, i ≠ .updateGsh sl t a) → (∀ sl t a, i ≠ .updateHyb sl t a) →
    s' = { s with rsp := s'.rsp }

/-- 10_state.md R21: outside reset, a step that changes a slot accepted an UPDATE to that slot that completed without error. -/
def Obligations.OnlySuccessfulUpdatesChangeState : Prop :=
  ∀ (s s' : State) (sl : SlotId), step s = .next s' → s'.slot sl ≠ s.slot sl →
    ∃ p rest, s.input = p :: rest ∧
      (p.rst = true ∨
        (p.rst = false ∧ p.reqValid = true ∧ p.reqReady = true ∧
          p.cmd.toNat % 4 = 2 ∧ p.cmd.toNat / 32 = 0 ∧ p.cmd.toNat / 4 % 4 = (slotBits sl).toNat ∧
          s.slot sl ≠ .none ∧ ∃ r, s'.rsp = some ⟨r, .ok⟩))

/-- 10_state.md R33: no step changes the configuration, a reset included. -/
def Obligations.ConfigurationNeverChanges : Prop :=
  ∀ s s' : State, step s = .next s' → s'.units = s.units

/-- 44_control.md R136: two states that agree on the slot a command is addressed to give the same response and the same new
slot, and the command leaves every other slot; a NOP and a command that ends in error respond the same in every state. -/
def Obligations.CommandSeesAndChangesOneSlotOnly : Prop :=
  (∀ (i : Instr) (sl : SlotId) (k : Option Kind) (s₁ s₂ t₁ : State), i.target = some (sl, k) →
    s₁.slot sl = s₂.slot sl → exec i s₁ = .next t₁ →
    ∃ t₂, exec i s₂ = .next t₂ ∧ t₂.rsp = t₁.rsp ∧ t₂.slot sl = t₁.slot sl ∧
      ∀ sl', sl' ≠ sl → t₂.slot sl' = s₂.slot sl') ∧
  (∀ (i : Instr), i.target = none → ∃ r, ∀ s : State, exec i s = .next { s with rsp := some r })

/-- 44_control.md R132: an UPDATE's response is the one a PREDICT with the same slot and address gives just before it. -/
def Obligations.UpdateRespondsWithThePrediction : Prop :=
  ∀ (s s₁ : State) (sl : SlotId) (x t : Bool) (a : Addr),
    (exec (.predictBim sl x a) s = .next s₁ → ∃ s₂, exec (.updateBim sl t a) s = .next s₂ ∧ s₂.rsp = s₁.rsp) ∧
    (exec (.predictGsh sl x a) s = .next s₁ → ∃ s₂, exec (.updateGsh sl t a) s = .next s₂ ∧ s₂.rsp = s₁.rsp) ∧
    (exec (.predictHyb sl x a) s = .next s₁ → ∃ s₂, exec (.updateHyb sl t a) s = .next s₂ ∧ s₂.rsp = s₁.rsp)

/-- 20_memory.md R46: any number of PREDICTs in a row give one response and leave every slot. -/
def Obligations.PredictIsIdempotent : Prop :=
  ∀ (s : State) (x : Command) (k : Nat), x.cmd.toNat % 4 = 1 →
    ∃ r s', runCommands s (List.replicate k x) = (List.replicate k r, s') ∧ ∀ sl, s'.slot sl = s.slot sl

/-- 20_memory.md R49 and 30_encoding.md R56: commands run one after another in the order they are accepted, each on the state
the ones before it left, with one response each. -/
def Obligations.RunIsSerial : Prop :=
  ∀ (s : State) (cs ds : List Command),
    (runCommands s cs).1.length = cs.length ∧
    (runCommands s cs).2.input = s.input ∧
    runCommands s (cs ++ ds) =
      ((runCommands s cs).1 ++ (runCommands (runCommands s cs).2 ds).1, (runCommands (runCommands s cs).2 ds).2)

/-- 20_memory.md R54: successful commands to different slots commute, commands to one slot need not. -/
def Obligations.CommandsToDifferentSlotsCommute : Prop :=
  (∀ (s : State) (c₁ c₂ : Command) (sl₁ sl₂ : SlotId) (k₁ k₂ : Kind),
    (decode s.units c₁).target = some (sl₁, some k₁) → (decode s.units c₂).target = some (sl₂, some k₂) → sl₁ ≠ sl₂ →
    ∃ r₁ r₂ t t', runCommands s [c₁, c₂] = ([r₁, r₂], t) ∧ runCommands s [c₂, c₁] = ([r₂, r₁], t') ∧
      r₁.err = .ok ∧ r₂.err = .ok ∧ ∀ sl, t.slot sl = t'.slot sl) ∧
  (∃ (s : State) (c₁ c₂ : Command) (sl : SlotId) (k : Kind),
    (decode s.units c₁).target = some (sl, some k) ∧ (decode s.units c₂).target = some (sl, some k) ∧
    (runCommands s [c₁, c₂]).2.slot sl ≠ (runCommands s [c₂, c₁]).2.slot sl)

/-- 10_state.md R21, 41_bimodal.md R93, 44_control.md R136: a slot's state after any command sequence is its state after the
successful UPDATEs to it alone, for every kind of unit. -/
def Obligations.SlotStateComesFromItsUpdates : Prop :=
  ∀ (s : State) (cs : List Command) (sl : SlotId),
    (runCommands s cs).2.slot sl = (runCommands s (cs.filter (trains s.units sl))).2.slot sl

/-! ## Counters, histories, indices, tables -/

/-- 40_counter_primitives.md R80: the counter state machine, whole. -/
def Obligations.CounterStateMachine : Prop :=
  ctrPredict 0 = false ∧ ctrTrain 0 true = 1 ∧ ctrTrain 0 false = 0 ∧
  ctrPredict 1 = false ∧ ctrTrain 1 true = 2 ∧ ctrTrain 1 false = 0 ∧
  ctrPredict 2 = true ∧ ctrTrain 2 true = 3 ∧ ctrTrain 2 false = 1 ∧
  ctrPredict 3 = true ∧ ctrTrain 3 true = 3 ∧ ctrTrain 3 false = 2

/-- 40_counter_primitives.md R81: a training flips the prediction at `1 -> 2` and `2 -> 1` only. -/
def Obligations.CounterHysteresis : Prop :=
  ∀ (c : Counter) (t : Bool),
    (ctrPredict (ctrTrain c t) ≠ ctrPredict c ↔ (c = 1 ∧ t = true) ∨ (c = 2 ∧ t = false)) ∧
    (ctrTrain c t).toNat ≤ c.toNat + 1 ∧ c.toNat ≤ (ctrTrain c t).toNat + 1

/-- 40_counter_primitives.md R82: three trainings on one outcome reach its bound, and more of it stays there; a fresh entry
needs two up and one down. -/
def Obligations.CounterSaturation : Prop :=
  ∀ (c : Counter) (k : Nat),
    (3 ≤ k → (List.replicate k true).foldl ctrTrain c = 3 ∧ (List.replicate k false).foldl ctrTrain c = 0) ∧
    ctrTrain (ctrTrain 1 true) true = 3 ∧ ctrTrain 1 false = 0

/-- 40_counter_primitives.md R83: the history shift, as a number and bit by bit. -/
def Obligations.HistoryShift : Prop :=
  ∀ (h : Nat) (t : Bool) (hb : Nat),
    histShift h t hb = (2 * h + t.toNat) % 2 ^ hb ∧
    (0 < hb → (histShift h t hb).testBit 0 = t) ∧
    (∀ k, 1 ≤ k → k < hb → (histShift h t hb).testBit k = h.testBit (k - 1)) ∧
    (∀ k, hb ≤ k → (histShift h t hb).testBit k = false)

/-- 40_counter_primitives.md R84: what a history register holds after any sequence of outcomes, the most recent last in `ts`. -/
def Obligations.HistoryAfterManyShifts : Prop :=
  ∀ (h₀ hb : Nat) (ts : List Bool) (k : Nat),
    let h := ts.foldl (fun h t => histShift h t hb) h₀
    (k < min ts.length hb → some (h.testBit k) = ts[ts.length - 1 - k]?) ∧
    (ts.length ≤ k → k < hb → h.testBit k = h₀.testBit (k - ts.length)) ∧
    (0 < ts.length → hb ≤ k → h.testBit k = false)

/-- 42_gshare.md R102: after any commands run from reset, the history of a GSH slot of any configuration is the last outcomes of
the UPDATEs among them that train the slot, the most recent in bit 0 and zeros above. -/
def Obligations.GshHistoryIsTheLastOutcomes : Prop :=
  ∀ (u : Units) (sl : SlotId) (hb : Nat) (cs : List Command), u.get sl = .gsh hb →
    let ts := (cs.filter (trains u sl)).map fun x => decide (x.cmd.toNat / 16 % 2 = 1)
    ∃ g, (runCommands (State.construct u) cs).2.slot sl = .gsh g ∧
      ∀ k, (k < min ts.length hb → some (g.h.testBit k) = ts[ts.length - 1 - k]?) ∧
        (min ts.length hb ≤ k → g.h.testBit k = false)

/-- 40_counter_primitives.md R88: every index lies inside its table. -/
def Obligations.IndicesAreInBounds : Prop :=
  ∀ (a : Addr) (h n : Nat), 1 ≤ n → bimIndex a n < n ∧ xorIndex a h n < n

/-- 40_counter_primitives.md R85, R86, R87: for a size `2^k` the reduction keeps the low bits; the XOR is of the whole operands. -/
def Obligations.IndexOfPowerOfTwoSizeIsTheLowBits : Prop :=
  ∀ (a : Addr) (h k j : Nat),
    (bimIndex a (2 ^ k)).testBit j = (decide (j < k) && a.testBit j) ∧
    (xorIndex a h (2 ^ k)).testBit j = (decide (j < k) && (a.testBit j ^^ h.testBit j)) ∧
    (h < 2 ^ k → xorIndex a h (2 ^ k) = a % 2 ^ k ^^^ h)

/-- 42_gshare.md R103: when two accesses of GSH units of one size share an entry, and that one address meets each entry at
exactly one history value. -/
def Obligations.WhenGshAccessesShareAnEntry : Prop :=
  ∀ (g₁ g₂ : Gsh) (a₁ a₂ : Addr), g₁.historyBits = g₂.historyBits →
    g₁.h < 2 ^ g₁.historyBits → g₂.h < 2 ^ g₂.historyBits →
    (gshIndex g₁ a₁ = gshIndex g₂ a₂ ↔
      a₁ % 2 ^ g₁.historyBits ^^^ g₁.h = a₂ % 2 ^ g₂.historyBits ^^^ g₂.h) ∧
    (gshIndex g₁ a₁ = gshIndex g₂ a₁ → g₁.h = g₂.h) ∧
    (∀ j, j < 2 ^ g₁.historyBits → ∃ h, h < 2 ^ g₁.historyBits ∧ gshIndex { g₁ with h := h } a₁ = j)

/-- 20_memory.md R43: the two table primitives. -/
def Obligations.TablePrimitives : Prop :=
  ∀ (t : Table) (i : Nat) (v : Counter),
    memRead (memWrite t i v) i = v ∧ ∀ j, j ≠ i → memRead (memWrite t i v) j = memRead t j

/-- The table representation (log entry 3): canonical tables with equal entries are equal, and writing inside the table keeps
the canonical form. -/
def Obligations.TablesAreTheirEntries : Prop :=
  ∀ (n : Nat) (t u : Table), t.wf n = true → u.wf n = true →
    ((∀ i, i < n → memRead t i = memRead u i) → t = u) ∧
    (∀ i v, i < n → (memWrite t i v).wf n = true)

/-! ## BIM -/

/-- 41_bimodal.md R92: addresses with equal remainders share one entry, and an UPDATE for either changes what PREDICT gives for
both; with the source's Scenario B. -/
def Obligations.BimAliasing : Prop :=
  (∀ (s : State) (sl : SlotId) (b : Bim) (t : Bool) (a₁ a₂ : Addr), s.slot sl = .bim b →
    a₁ % b.tableSize = a₂ % b.tableSize →
    ∃ s' r, exec (.updateBim sl t a₁) s = .next s' ∧
      exec (.predictBim sl false a₁) s' = .next { s' with rsp := some ⟨r, .ok⟩ } ∧
      exec (.predictBim sl false a₂) s' = .next { s' with rsp := some ⟨r, .ok⟩ } ∧
      r = decide (1 < (ctrTrain (memRead b.T (a₂ % b.tableSize)) t).toNat)) ∧
  (∀ (s : State) (sl : SlotId), s.slot sl = .bim (Bim.construct 4) →
    (runCommands s [encode (.predictBim sl false 9), encode (.updateBim sl true 5), encode (.predictBim sl false 9)]).1 =
      [⟨false, .ok⟩, ⟨false, .ok⟩, ⟨true, .ok⟩])

/-- 41_bimodal.md R93: a BIM slot's state is its UPDATEs folded in order; the response depends on that state and the address;
UPDATEs of different entries commute, UPDATEs of one entry need not. -/
def Obligations.BimStateIsTheFoldOfItsUpdates : Prop :=
  (∀ (s : State) (sl : SlotId) (b : Bim) (cs : List Command), s.slot sl = .bim b →
    (runCommands s cs).2.slot sl =
      .bim ((cs.filter (trains s.units sl)).foldl (fun b x => bimUpdate b x.addr (x.cmd.getLsbD 4)) b)) ∧
  (∀ (s s' : State) (sl : SlotId) (b : Bim) (x : Bool) (a : Addr), s.slot sl = .bim b → s'.slot sl = .bim b →
    ∃ r, exec (.predictBim sl x a) s = .next { s with rsp := some r } ∧
      exec (.predictBim sl x a) s' = .next { s' with rsp := some r }) ∧
  (∀ (b : Bim) (a₁ a₂ : Addr) (t₁ t₂ : Bool), b.wf = true → a₁ % b.tableSize ≠ a₂ % b.tableSize →
    bimUpdate (bimUpdate b a₁ t₁) a₂ t₂ = bimUpdate (bimUpdate b a₂ t₂) a₁ t₁) ∧
  (∃ (b : Bim) (a : Addr), b.wf = true ∧ bimUpdate (bimUpdate b a true) a false ≠ bimUpdate (bimUpdate b a false) a true)

/-! ## HYB -/

/-- 43_hybrid.md R114, R122: the selector after an UPDATE.HYB that the chosen unit got right (no write) or wrong (one entry
moves away from it, whatever the other unit said). -/
def Obligations.SelectorMovesAwayFromAWrongChoice : Prop :=
  ∀ (s s' : State) (sl : SlotId) (y y' : Hyb) (t : Bool) (a : Addr), s.slot sl = .hyb y →
    exec (.updateHyb sl t a) s = .next s' → s'.slot sl = .hyb y' →
    (∀ i, i ≠ hybSelIndex y a → memRead y'.S i = memRead y.S i) ∧
    (hybFavorG y a = false → bimPredict y.bim a = t → y'.S = y.S) ∧
    (hybFavorG y a = false → bimPredict y.bim a ≠ t →
      memRead y'.S (hybSelIndex y a) = satInc (memRead y.S (hybSelIndex y a))) ∧
    (hybFavorG y a = true → gshPredict y.gsh a = t → y'.S = y.S) ∧
    (hybFavorG y a = true → gshPredict y.gsh a ≠ t →
      memRead y'.S (hybSelIndex y a) = satDec (memRead y.S (hybSelIndex y a)))

/-- 43_hybrid.md R117: steps 2, 3 and 4 of UPDATE.HYB give the same state in each of their six orders, once step 1 has fixed
its values. -/
def Obligations.HybUpdateStepsCommute : Prop :=
  ∀ (y : Hyb) (si : Nat) (sc : Counter) (g p t : Bool) (a : Addr),
    let two := fun z => hybNudge z si sc g p t
    let three := fun z => hybAdvance z t
    let four := fun z => hybForward z a t
    four (two (three y)) = four (three (two y)) ∧
    three (four (two y)) = four (three (two y)) ∧
    three (two (four y)) = four (three (two y)) ∧
    two (four (three y)) = four (three (two y)) ∧
    two (three (four y)) = four (three (two y))

/-- 43_hybrid.md R121: PREDICT.HYB responds as the favored inner unit would if it stood in the slot. -/
def Obligations.HybridConsistency : Prop :=
  ∀ (s : State) (sl : SlotId) (y : Hyb) (x : Bool) (a : Addr), s.slot sl = .hyb y →
    ∃ r, exec (.predictHyb sl x a) s = .next { s with rsp := some r } ∧
      (hybFavorG y a = true → exec (.predictGsh sl x a) (s.setSlot sl (.gsh y.gsh)) =
        .next { s.setSlot sl (.gsh y.gsh) with rsp := some r }) ∧
      (hybFavorG y a = false → exec (.predictBim sl x a) (s.setSlot sl (.bim y.bim)) =
        .next { s.setSlot sl (.bim y.bim) with rsp := some r })

/-- 43_hybrid.md R118: the two histories are equal in every reachable state of every block. -/
def Obligations.ReachableHistoriesAreEqual : Prop :=
  ∀ (c : Config) (s : State), Reachable c s → ∀ sl, (s.slot sl).EqualHistories

/-- 43_hybrid.md R119: in every reachable state every selector entry is 1 or 2, 2 favors GShare and 1 favors Bimodal, and a
misprediction flips the entry. -/
def Obligations.ReachableSelectorIsAToggle : Prop :=
  ∀ (c : Config) (s : State) (sl : SlotId) (y : Hyb), Reachable c s → s.slot sl = .hyb y →
    (∀ i, memRead y.S i = 1 ∨ memRead y.S i = 2) ∧
    (∀ a, (hybFavorG y a = true ↔ memRead y.S (hybSelIndex y a) = 2) ∧
      (hybFavorG y a = false ↔ memRead y.S (hybSelIndex y a) = 1)) ∧
    (∀ a t, hybPredict y a ≠ t → ∃ s' y', exec (.updateHyb sl t a) s = .next s' ∧ s'.slot sl = .hyb y' ∧
      (memRead y'.S (hybSelIndex y a)).toNat = 3 - (memRead y.S (hybSelIndex y a)).toNat)

/-- 70_reset_and_hazards.md R167: when no command between them trains the HYB slot, an occurrence's UPDATE re-derives the
prediction its PREDICT delivered, whatever else was accepted; and when one does, the two can differ. -/
def Obligations.RederivedPredictionIsTheDeliveredOne : Prop :=
  (∀ (s : State) (sl : SlotId) (y : Hyb) (x t : Bool) (a : Addr) (cs : List Command), s.slot sl = .hyb y →
    (∀ c ∈ cs, trains s.units sl c = false) →
    ∃ r rs s', rs.length = cs.length ∧
      runCommands s (encode (.predictHyb sl x a) :: (cs ++ [encode (.updateHyb sl t a)])) = (r :: (rs ++ [r]), s')) ∧
  (∃ (a b : Addr) (t u : Bool) (r r₁ r₂ : Response) (s' : State), r ≠ r₂ ∧
    runCommands State.reset [encode (.predictHyb .u2 false a), encode (.updateHyb .u2 u b), encode (.updateHyb .u2 t a)] =
      ([r, r₁, r₂], s'))

/-! ## Invariants -/

/-- 60_exceptions.md R145: exactly the configurations with a parameter below 1 are refused. -/
def Obligations.ElaborationRefusesBadConfigurations : Prop :=
  ∀ c : Config,
    (elaborate c = none ↔
      c.addrW < 1 ∨ ∃ sl, (∃ n, c.units.get sl = .bim n ∧ n < 1) ∨ (∃ hb, c.units.get sl = .gsh hb ∧ hb < 1) ∨
        (∃ hb n, c.units.get sl = .hyb hb n ∧ (hb < 1 ∨ n < 1))) ∧
    (∀ s, elaborate c = some s → s = State.construct c.units)

/-- The start of the invariants: every block that exists is well formed right after reset, its hybrids' histories are equal and
their selectors hold 1. -/
def Obligations.ConstructionMeetsTheInvariants : Prop :=
  (∀ c : Config, c.ok = true → (State.construct c.units).wf = true ∧
    ∀ sl, ((State.construct c.units).slot sl).EqualHistories ∧ ((State.construct c.units).slot sl).SelectorIsToggle) ∧
  State.reset.wf = true

/-- 10_state.md R24, R29: every step keeps every history register below `2^history_bits` and every table in range and in its
canonical form, for every command, and for reset. -/
def Obligations.StepKeepsWellFormed : Prop :=
  ∀ s s' : State, s.wf = true → step s = .next s' → s'.wf = true

/-- 43_hybrid.md R118, R119, from every state: each step keeps the histories of a HYB slot equal, and keeps its selector entries
in `{1, 2}`. -/
def Obligations.StepKeepsTheHybridInvariants : Prop :=
  ∀ (s s' : State) (sl : SlotId), step s = .next s' →
    ((s.slot sl).EqualHistories → (s'.slot sl).EqualHistories) ∧
    ((s.slot sl).SelectorIsToggle → (s'.slot sl).SelectorIsToggle)

/-- 70_reset_and_hazards.md R162: after reset of any block every entry predicts not-taken, every selector favors Bimodal, and the
first PREDICT to any slot, at any address, responds 0. -/
def Obligations.FirstPredictionIsNotTaken : Prop :=
  ∀ (u : Units) (sl : SlotId) (x : Bool) (a : Addr),
    (∀ b, (State.construct u).slot sl = .bim b → bimPredict b a = false) ∧
    (∀ g, (State.construct u).slot sl = .gsh g → gshPredict g a = false) ∧
    (∀ y, (State.construct u).slot sl = .hyb y →
      bimPredict y.bim a = false ∧ gshPredict y.gsh a = false ∧ hybFavorG y a = false) ∧
    ∃ e, step ((State.construct u).offer ⟨packCmd 0 x (slotBits sl) 0b01#2, a⟩) =
      .next { State.construct u with rsp := some ⟨false, e⟩ }
end

