-- ==== Sys2Proof/Laws/Encoding.lean ====
section
/-! SUPPORT. The fields of a packed command byte (spec 30_encoding.md R57). -/

namespace Sys2Proof

@[simp] theorem slotOfBits_slotBits (sl : SlotId) : slotOfBits (slotBits sl) = sl := by
  cases sl <;> rfl

@[simp] theorem slotBits_slotOfBits : ∀ b : BitVec 2, slotBits (slotOfBits b) = b := by decide

@[simp] theorem cmdOp_packCmd : ∀ (r : BitVec 3) (t : Bool) (u o : BitVec 2), cmdOp (packCmd r t u o) = o := by decide

@[simp] theorem cmdUnit_packCmd : ∀ (r : BitVec 3) (t : Bool) (u o : BitVec 2), cmdUnit (packCmd r t u o) = u := by decide

@[simp] theorem cmdT_packCmd : ∀ (r : BitVec 3) (t : Bool) (u o : BitVec 2), cmdT (packCmd r t u o) = t := by decide

@[simp] theorem cmdRsvd_packCmd : ∀ (r : BitVec 3) (t : Bool) (u o : BitVec 2), cmdRsvd (packCmd r t u o) = r := by decide

@[simp] theorem cmdOp_packMid : ∀ (r m : BitVec 3) (o : BitVec 2), cmdOp (packMid r m o) = o := by decide

@[simp] theorem cmdMid_packMid : ∀ (r m : BitVec 3) (o : BitVec 2), cmdMid (packMid r m o) = m := by decide

@[simp] theorem cmdRsvd_packMid : ∀ (r m : BitVec 3) (o : BitVec 2), cmdRsvd (packMid r m o) = r := by decide

/-- The four fields are the whole byte. -/
theorem packCmd_fields : ∀ c : Byte, packCmd (cmdRsvd c) (cmdT c) (cmdUnit c) (cmdOp c) = c := by decide

/-! ## The fields as arithmetic on the byte -/

theorem cmdOp_toNat : ∀ c : Byte, (cmdOp c).toNat = c.toNat % 4 := by decide

theorem cmdUnit_toNat : ∀ c : Byte, (cmdUnit c).toNat = c.toNat / 4 % 4 := by decide

theorem cmdRsvd_toNat : ∀ c : Byte, (cmdRsvd c).toNat = c.toNat / 32 := by decide

theorem cmdT_eq : ∀ c : Byte, cmdT c = decide (c.toNat / 16 % 2 = 1) := by decide

/-- The slot that the `unit` field names. -/
theorem slotOfBits_of_toNat {c : Byte} {sl : SlotId} (h : c.toNat / 4 % 4 = (slotBits sl).toNat) :
    slotOfBits (cmdUnit c) = sl := by
  rw [BitVec.eq_of_toNat_eq ((cmdUnit_toNat c).trans h), slotOfBits_slotBits]

/-! ## The decoder, line by line (R64) -/

theorem decode_nop {u : Units} {x : Command} (h : cmdOp x.cmd = 0b00#2) : decode u x = .nop (cmdIgn x.cmd) x.addr := by
  rw [decode, if_pos h]

theorem decode_op11 {u : Units} {x : Command} (h : cmdOp x.cmd = 0b11#2) :
    decode u x = .errOp11 (cmdIgn x.cmd) x.addr := by
  rw [decode, if_neg (by rw [h]; decide), if_pos h]

theorem decode_predict {u : Units} {x : Command} (h : cmdOp x.cmd = 0b01#2) (hr : cmdRsvd x.cmd = 0b000#3) :
    decode u x = decodePredict u x := by
  rw [decode, if_neg (by rw [h]; decide), if_neg (by rw [h]; decide), if_pos h, if_pos hr]

theorem decode_rsvdPredict {u : Units} {x : Command} (h : cmdOp x.cmd = 0b01#2) (hr : cmdRsvd x.cmd ≠ 0b000#3) :
    decode u x = decodeRsvdPredict x := by
  rw [decode, if_neg (by rw [h]; decide), if_neg (by rw [h]; decide), if_pos h, if_neg hr]

theorem decode_update {u : Units} {x : Command} (h : cmdOp x.cmd = 0b10#2) (hr : cmdRsvd x.cmd = 0b000#3) :
    decode u x = decodeUpdate u x := by
  rw [decode, if_neg (by rw [h]; decide), if_neg (by rw [h]; decide), if_neg (by rw [h]; decide), if_pos hr]

theorem decode_rsvdUpdate {u : Units} {x : Command} (h : cmdOp x.cmd = 0b10#2) (hr : cmdRsvd x.cmd ≠ 0b000#3) :
    decode u x = decodeRsvdUpdate x := by
  rw [decode, if_neg (by rw [h]; decide), if_neg (by rw [h]; decide), if_neg (by rw [h]; decide), if_neg hr]

/-- The six cases of the decoder are all. -/
theorem cmd_cases (c : Byte) :
    cmdOp c = 0b00#2 ∨ cmdOp c = 0b11#2 ∨ (cmdOp c = 0b01#2 ∧ cmdRsvd c = 0b000#3) ∨
    (cmdOp c = 0b01#2 ∧ cmdRsvd c ≠ 0b000#3) ∨ (cmdOp c = 0b10#2 ∧ cmdRsvd c = 0b000#3) ∨
    (cmdOp c = 0b10#2 ∧ cmdRsvd c ≠ 0b000#3) := by
  revert c
  decide

end Sys2Proof
end

