-- ==== Sys2Proof/Laws/State.lean ====
section
/-! SUPPORT. One lemma per field and update of the state, so that no proof unfolds a record update. -/

namespace Sys2Proof.Machine

/-! ## Slot access -/

@[simp] theorem State.slot_setSlot_same (s : State) (sl : SlotId) (v : Slot) : (s.setSlot sl v).slot sl = v := by
  cases sl <;> rfl

theorem State.slot_setSlot_other (s : State) {sl sl' : SlotId} (v : Slot) (h : sl' ≠ sl) :
    (s.setSlot sl v).slot sl' = s.slot sl' := by
  cases sl <;> cases sl' <;> first | rfl | exact absurd rfl h

@[simp] theorem State.setSlot_input (s : State) (sl : SlotId) (v : Slot) : (s.setSlot sl v).input = s.input := by
  cases sl <;> rfl

@[simp] theorem State.setSlot_rsp (s : State) (sl : SlotId) (v : Slot) : (s.setSlot sl v).rsp = s.rsp := by
  cases sl <;> rfl

@[simp] theorem State.units_get (s : State) (sl : SlotId) : s.units.get sl = (s.slot sl).config := by
  cases sl <;> rfl

/-- A state is its four slots, its input and its response. -/
theorem State.ext_slots {s t : State} (hs : ∀ sl, s.slot sl = t.slot sl) (hi : s.input = t.input) (hr : s.rsp = t.rsp) :
    s = t := by
  have h0 := hs .u0
  have h1 := hs .u1
  have h2 := hs .u2
  have h3 := hs .u3
  cases s
  cases t
  simp_all [State.slot]

/-! ## The response -/

@[simp] theorem State.respond_u0 (s : State) (b : Bool) (e : ErrCode) : (s.respond b e).u0 = s.u0 := rfl
@[simp] theorem State.respond_u1 (s : State) (b : Bool) (e : ErrCode) : (s.respond b e).u1 = s.u1 := rfl
@[simp] theorem State.respond_u2 (s : State) (b : Bool) (e : ErrCode) : (s.respond b e).u2 = s.u2 := rfl
@[simp] theorem State.respond_u3 (s : State) (b : Bool) (e : ErrCode) : (s.respond b e).u3 = s.u3 := rfl
@[simp] theorem State.respond_input (s : State) (b : Bool) (e : ErrCode) : (s.respond b e).input = s.input := rfl
@[simp] theorem State.respond_rsp (s : State) (b : Bool) (e : ErrCode) : (s.respond b e).rsp = some ⟨b, e⟩ := rfl
@[simp] theorem State.respond_units (s : State) (b : Bool) (e : ErrCode) : (s.respond b e).units = s.units := rfl

@[simp] theorem State.respond_slot (s : State) (b : Bool) (e : ErrCode) (sl : SlotId) :
    (s.respond b e).slot sl = s.slot sl := by
  cases sl <;> rfl

@[simp] theorem State.silent_input (s : State) : s.silent.input = s.input := rfl
@[simp] theorem State.silent_rsp (s : State) : s.silent.rsp = none := rfl
@[simp] theorem State.silent_units (s : State) : s.silent.units = s.units := rfl

@[simp] theorem State.silent_slot (s : State) (sl : SlotId) : s.silent.slot sl = s.slot sl := by
  cases sl <;> rfl

/-! ## The ports -/

@[simp] theorem State.withInput_slot (s : State) (l : List PortInput) (sl : SlotId) :
    State.slot { s with input := l } sl = s.slot sl := by
  cases sl <;> rfl

@[simp] theorem State.withInput_units (s : State) (l : List PortInput) : State.units { s with input := l } = s.units := rfl

@[simp] theorem State.offer_input (s : State) (c : Command) : (s.offer c).input = PortInput.accepted c :: s.input := rfl
@[simp] theorem State.offer_units (s : State) (c : Command) : (s.offer c).units = s.units := rfl

@[simp] theorem State.offer_slot (s : State) (c : Command) (sl : SlotId) : (s.offer c).slot sl = s.slot sl := by
  cases sl <;> rfl

@[simp] theorem PortInput.accepted_accepts (c : Command) : (PortInput.accepted c).accepts = true := rfl
@[simp] theorem PortInput.accepted_command (c : Command) : (PortInput.accepted c).command = c := rfl
@[simp] theorem PortInput.accepted_rst (c : Command) : (PortInput.accepted c).rst = false := rfl

/-! ## Reset and construction -/

@[simp] theorem Slot.construct_config (u : UnitConfig) : (Slot.construct u).config = u := by
  cases u <;> rfl

@[simp] theorem State.construct_units (u : Units) : (State.construct u).units = u := by
  cases u
  simp [State.construct, State.units]

@[simp] theorem State.construct_slot (u : Units) (sl : SlotId) : (State.construct u).slot sl = Slot.construct (u.get sl) := by
  cases sl <;> rfl

@[simp] theorem assertReset_slot (s : State) (sl : SlotId) : (assertReset s).slot sl = Slot.construct (s.slot sl).config := by
  cases sl <;> rfl

@[simp] theorem assertReset_units (s : State) : (assertReset s).units = s.units := by
  simp [assertReset, State.units]

@[simp] theorem assertReset_input (s : State) : (assertReset s).input = s.input := rfl
@[simp] theorem assertReset_rsp (s : State) : (assertReset s).rsp = none := rfl

end Sys2Proof.Machine
end

