-- ==== Sys2Proof/Laws/Exec.lean ====
section
/-! SUPPORT. What each shared operation and the step can do, once: the equations of `step` for what the ports show, and the
inversion of `exec`. -/

namespace Sys2Proof.Machine

/-- The error ending always answers, and changes the response only (R143). -/
@[simp] theorem raiseErr_eq (e : ErrCode) (s : State) : raiseErr e s = .next (s.respond false e) := rfl

theorem execPredictBim_eq {s : State} {sl : SlotId} {b : Bim} (x : Bool) (a : Addr) (h : s.slot sl = .bim b) :
    execPredictBim sl x a s = .next (s.respond (bimPredict b a) .ok) := by
  simp [execPredictBim, h]

theorem execUpdateBim_eq {s : State} {sl : SlotId} {b : Bim} (t : Bool) (a : Addr) (h : s.slot sl = .bim b) :
    execUpdateBim sl t a s = .next ((s.setSlot sl (.bim (bimUpdate b a t))).respond (bimPredict b a) .ok) := by
  simp [execUpdateBim, h]

theorem execPredictGsh_eq {s : State} {sl : SlotId} {g : Gsh} (x : Bool) (a : Addr) (h : s.slot sl = .gsh g) :
    execPredictGsh sl x a s = .next (s.respond (gshPredict g a) .ok) := by
  simp [execPredictGsh, h]

theorem execUpdateGsh_eq {s : State} {sl : SlotId} {g : Gsh} (t : Bool) (a : Addr) (h : s.slot sl = .gsh g) :
    execUpdateGsh sl t a s = .next ((s.setSlot sl (.gsh (gshUpdate g a t))).respond (gshPredict g a) .ok) := by
  simp [execUpdateGsh, h]

theorem execPredictHyb_eq {s : State} {sl : SlotId} {y : Hyb} (x : Bool) (a : Addr) (h : s.slot sl = .hyb y) :
    execPredictHyb sl x a s = .next (s.respond (hybPredict y a) .ok) := by
  simp [execPredictHyb, h]

theorem execUpdateHyb_eq {s : State} {sl : SlotId} {y : Hyb} (t : Bool) (a : Addr) (h : s.slot sl = .hyb y) :
    execUpdateHyb sl t a s = .next ((s.setSlot sl (.hyb (hybUpdate y a t))).respond (hybPredict y a) .ok) := by
  simp [execUpdateHyb, h]

theorem execPredictNone_eq {s : State} {sl : SlotId} (x : Bool) (a : Addr) (h : s.slot sl = .none) :
    execPredictNone sl x a s = .next (s.respond false .errUnit) := by
  simp [execPredictNone, h]

theorem execUpdateNone_eq {s : State} {sl : SlotId} (t : Bool) (a : Addr) (h : s.slot sl = .none) :
    execUpdateNone sl t a s = .next (s.respond false .errUnit) := by
  simp [execUpdateNone, h]

/-- Everything a command can do: respond and leave every slot as it was, or train the one slot it is addressed to. -/
theorem exec_next_cases {i : Instr} {s s' : State} (h : exec i s = .next s') :
    (∃ b e, s' = s.respond b e) ∨
    (∃ sl t a u, i = .updateBim sl t a ∧ s.slot sl = .bim u ∧
      s' = (s.setSlot sl (.bim (bimUpdate u a t))).respond (bimPredict u a) .ok) ∨
    (∃ sl t a g, i = .updateGsh sl t a ∧ s.slot sl = .gsh g ∧
      s' = (s.setSlot sl (.gsh (gshUpdate g a t))).respond (gshPredict g a) .ok) ∨
    (∃ sl t a y, i = .updateHyb sl t a ∧ s.slot sl = .hyb y ∧
      s' = (s.setSlot sl (.hyb (hybUpdate y a t))).respond (hybPredict y a) .ok) := by
  cases i with
  | updateBim sl t a =>
    cases hs : s.slot sl with
    | bim u =>
      refine .inr (.inl ⟨sl, t, a, u, rfl, hs, ?_⟩)
      simpa [exec, execUpdateBim_eq t a hs, eq_comm] using h
    | _ => simp [exec, execUpdateBim, hs, refuseKind] at h
  | updateGsh sl t a =>
    cases hs : s.slot sl with
    | gsh g =>
      refine .inr (.inr (.inl ⟨sl, t, a, g, rfl, hs, ?_⟩))
      simpa [exec, execUpdateGsh_eq t a hs, eq_comm] using h
    | _ => simp [exec, execUpdateGsh, hs, refuseKind] at h
  | updateHyb sl t a =>
    cases hs : s.slot sl with
    | hyb y =>
      refine .inr (.inr (.inr ⟨sl, t, a, y, rfl, hs, ?_⟩))
      simpa [exec, execUpdateHyb_eq t a hs, eq_comm] using h
    | _ => simp [exec, execUpdateHyb, hs, refuseKind] at h
  | predictBim sl x a =>
    cases hs : s.slot sl <;> simp [exec, execPredictBim, hs, refuseKind] at h
    exact .inl ⟨_, _, h.symm⟩
  | predictGsh sl x a =>
    cases hs : s.slot sl <;> simp [exec, execPredictGsh, hs, refuseKind] at h
    exact .inl ⟨_, _, h.symm⟩
  | predictHyb sl x a =>
    cases hs : s.slot sl <;> simp [exec, execPredictHyb, hs, refuseKind] at h
    exact .inl ⟨_, _, h.symm⟩
  | predictNone sl x a =>
    cases hs : s.slot sl <;> simp [exec, execPredictNone, hs, refuseKind] at h
    exact .inl ⟨_, _, h.symm⟩
  | updateNone sl t a =>
    cases hs : s.slot sl <;> simp [exec, execUpdateNone, hs, refuseKind] at h
    exact .inl ⟨_, _, h.symm⟩
  | nop _ _ => exact .inl ⟨_, _, (Host.Outcome.next.inj h).symm⟩
  | errOp11 _ _ => exact .inl ⟨_, _, (Host.Outcome.next.inj h).symm⟩
  | errRsvdPredictB5 _ _ _ => exact .inl ⟨_, _, (Host.Outcome.next.inj h).symm⟩
  | errRsvdPredictB6 _ _ _ => exact .inl ⟨_, _, (Host.Outcome.next.inj h).symm⟩
  | errRsvdPredictB7 _ _ => exact .inl ⟨_, _, (Host.Outcome.next.inj h).symm⟩
  | errRsvdUpdateB5 _ _ _ => exact .inl ⟨_, _, (Host.Outcome.next.inj h).symm⟩
  | errRsvdUpdateB6 _ _ _ => exact .inl ⟨_, _, (Host.Outcome.next.inj h).symm⟩
  | errRsvdUpdateB7 _ _ => exact .inl ⟨_, _, (Host.Outcome.next.inj h).symm⟩

/-! ## The step for what the ports show -/

theorem step_nothing {s : State} (h : s.input = []) : step s = .next s.silent := by
  simp [step, h]

theorem step_reset {s : State} {p : PortInput} {rest : List PortInput} (h : s.input = p :: rest) (hr : p.rst = true) :
    step s = .next (assertReset { s with input := rest }) := by
  simp [step, h, hr]

theorem step_not_accepted {s : State} {p : PortInput} {rest : List PortInput} (h : s.input = p :: rest)
    (hr : p.rst = false) (ha : p.accepts = false) : step s = .next (State.silent { s with input := rest }) := by
  simp [step, h, hr, ha]

theorem PortInput.rst_of_accepts {p : PortInput} (ha : p.accepts = true) : p.rst = false := by
  simp [PortInput.accepts] at ha
  exact ha.2

end Sys2Proof.Machine
end

