-- ==== Sys2Proof/Laws/PerInstr.lean ====
section
/-! SUPPORT. The family RowMatch: the byte a command is encoded as matches the command's row of spec/opcode_table.json,
`(cmd & mask) = match` (spec 30_encoding.md R67). The rows of PREDICT and UPDATE are those of any slot `s`:
`0x01 + 4*s` and `0x02 + 4*s` with mask `0xEF`. -/

namespace Sys2Proof.Laws.RowMatch

/-- `match` and `mask` of a command's row. -/
def row : Instr → Byte × Byte
  | .nop _ _ => (0x00, 0x03)
  | .predictBim sl _ _ => (0x01 + 4 * (slotBits sl).zeroExtend 8, 0xEF)
  | .updateBim sl _ _ => (0x02 + 4 * (slotBits sl).zeroExtend 8, 0xEF)
  | .predictGsh sl _ _ => (0x01 + 4 * (slotBits sl).zeroExtend 8, 0xEF)
  | .updateGsh sl _ _ => (0x02 + 4 * (slotBits sl).zeroExtend 8, 0xEF)
  | .predictHyb sl _ _ => (0x01 + 4 * (slotBits sl).zeroExtend 8, 0xEF)
  | .updateHyb sl _ _ => (0x02 + 4 * (slotBits sl).zeroExtend 8, 0xEF)
  | .predictNone sl _ _ => (0x01 + 4 * (slotBits sl).zeroExtend 8, 0xEF)
  | .updateNone sl _ _ => (0x02 + 4 * (slotBits sl).zeroExtend 8, 0xEF)
  | .errOp11 _ _ => (0x03, 0x03)
  | .errRsvdPredictB5 _ _ _ => (0x21, 0x23)
  | .errRsvdPredictB6 _ _ _ => (0x41, 0x43)
  | .errRsvdPredictB7 _ _ => (0x81, 0x83)
  | .errRsvdUpdateB5 _ _ _ => (0x22, 0x23)
  | .errRsvdUpdateB6 _ _ _ => (0x42, 0x43)
  | .errRsvdUpdateB7 _ _ => (0x82, 0x83)

def Statement (i : Instr) : Prop := (encode i).cmd &&& (row i).2 = (row i).1

theorem predict_matches (sl : SlotId) : ∀ x : Bool,
    packCmd 0b000#3 x (slotBits sl) 0b01#2 &&& 0xEF = 0x01 + 4 * (slotBits sl).zeroExtend 8 := by
  cases sl <;> decide

theorem update_matches (sl : SlotId) : ∀ t : Bool,
    packCmd 0b000#3 t (slotBits sl) 0b10#2 &&& 0xEF = 0x02 + 4 * (slotBits sl).zeroExtend 8 := by
  cases sl <;> decide

theorem nop (ign : BitVec 6) (a : Addr) : Statement (.nop ign a) := by
  revert ign
  simp only [Statement, encode, row]
  decide

theorem predictBim (sl : SlotId) (ign : Bool) (a : Addr) : Statement (.predictBim sl ign a) := predict_matches sl ign
theorem updateBim (sl : SlotId) (t : Bool) (a : Addr) : Statement (.updateBim sl t a) := update_matches sl t
theorem predictGsh (sl : SlotId) (ign : Bool) (a : Addr) : Statement (.predictGsh sl ign a) := predict_matches sl ign
theorem updateGsh (sl : SlotId) (t : Bool) (a : Addr) : Statement (.updateGsh sl t a) := update_matches sl t
theorem predictHyb (sl : SlotId) (ign : Bool) (a : Addr) : Statement (.predictHyb sl ign a) := predict_matches sl ign
theorem updateHyb (sl : SlotId) (t : Bool) (a : Addr) : Statement (.updateHyb sl t a) := update_matches sl t
theorem predictNone (sl : SlotId) (ign : Bool) (a : Addr) : Statement (.predictNone sl ign a) := predict_matches sl ign
theorem updateNone (sl : SlotId) (t : Bool) (a : Addr) : Statement (.updateNone sl t a) := update_matches sl t

theorem errOp11 (ign : BitVec 6) (a : Addr) : Statement (.errOp11 ign a) := by
  revert ign
  simp only [Statement, encode, row]
  decide

theorem errRsvdPredictB5 (hi : BitVec 2) (mid : BitVec 3) (a : Addr) : Statement (.errRsvdPredictB5 hi mid a) := by
  revert hi mid
  simp only [Statement, encode, row]
  decide

theorem errRsvdPredictB6 (b7 : Bool) (mid : BitVec 3) (a : Addr) : Statement (.errRsvdPredictB6 b7 mid a) := by
  revert b7 mid
  simp only [Statement, encode, row]
  decide

theorem errRsvdPredictB7 (mid : BitVec 3) (a : Addr) : Statement (.errRsvdPredictB7 mid a) := by
  revert mid
  simp only [Statement, encode, row]
  decide

theorem errRsvdUpdateB5 (hi : BitVec 2) (mid : BitVec 3) (a : Addr) : Statement (.errRsvdUpdateB5 hi mid a) := by
  revert hi mid
  simp only [Statement, encode, row]
  decide

theorem errRsvdUpdateB6 (b7 : Bool) (mid : BitVec 3) (a : Addr) : Statement (.errRsvdUpdateB6 b7 mid a) := by
  revert b7 mid
  simp only [Statement, encode, row]
  decide

theorem errRsvdUpdateB7 (mid : BitVec 3) (a : Addr) : Statement (.errRsvdUpdateB7 mid a) := by
  revert mid
  simp only [Statement, encode, row]
  decide

end Sys2Proof.Laws.RowMatch
end

