-- ==== Sys2Proof/Laws/Table.lean ====
section
/-! SUPPORT. The laws of the counter tables: read after write, and that a write keeps the canonical form
(spec 20_memory.md R43; log entry 3). -/

namespace Sys2Proof.Machine

@[simp] theorem memRead_nil (i : Nat) : memRead [] i = freshCounter := rfl

theorem memRead_eraseCell_same (t : Table) (i : Nat) : memRead (eraseCell i t) i = freshCounter := by
  induction t with
  | nil => rfl
  | cons e t ih =>
    obtain ⟨k, w⟩ := e
    by_cases h : k = i <;> simp [eraseCell, memRead, h, ih]

theorem memRead_eraseCell_other (t : Table) {i j : Nat} (hj : j ≠ i) : memRead (eraseCell i t) j = memRead t j := by
  induction t with
  | nil => rfl
  | cons e t ih =>
    obtain ⟨k, w⟩ := e
    by_cases h : k = i
    · subst h
      simp [eraseCell, memRead, ih, Ne.symm hj]
    · simp [eraseCell, memRead, h, ih]

theorem memRead_insertCell_same (t : Table) (i : Nat) (v : Counter) (h : ∀ e ∈ t, e.1 ≠ i) :
    memRead (insertCell i v t) i = v := by
  induction t with
  | nil => simp [insertCell, memRead]
  | cons e t ih =>
    obtain ⟨k, w⟩ := e
    have hk : k ≠ i := h (k, w) (by simp)
    have ht : ∀ e ∈ t, e.1 ≠ i := fun e he => h e (by simp [he])
    by_cases hlt : i < k <;> simp [insertCell, memRead, hlt, hk, ih ht]

theorem memRead_insertCell_other (t : Table) {i j : Nat} (v : Counter) (hj : j ≠ i) :
    memRead (insertCell i v t) j = memRead t j := by
  induction t with
  | nil => simp [insertCell, memRead, Ne.symm hj]
  | cons e t ih =>
    obtain ⟨k, w⟩ := e
    by_cases hlt : i < k <;> simp [insertCell, memRead, hlt, ih, Ne.symm hj]

theorem eraseCell_keys (t : Table) (i : Nat) : ∀ e ∈ eraseCell i t, e.1 ≠ i := by
  induction t with
  | nil => simp [eraseCell]
  | cons e t ih =>
    obtain ⟨k, w⟩ := e
    by_cases h : k = i
    · simpa [eraseCell, h] using ih
    · intro e he
      simp only [eraseCell, h, if_false, List.mem_cons] at he
      rcases he with rfl | he
      · exact h
      · exact ih e he

/-- `MemRead` after `MemWrite` at the same index gives the value written, whatever the list. -/
@[simp] theorem memRead_memWrite_same (t : Table) (i : Nat) (v : Counter) : memRead (memWrite t i v) i = v := by
  unfold memWrite
  split
  · next h => rw [memRead_eraseCell_same, h]
  · exact memRead_insertCell_same _ _ _ (eraseCell_keys t i)

/-- `MemWrite` leaves every other entry unchanged, whatever the list. -/
theorem memRead_memWrite_other (t : Table) {i j : Nat} (v : Counter) (hj : j ≠ i) :
    memRead (memWrite t i v) j = memRead t j := by
  unfold memWrite
  split
  · exact memRead_eraseCell_other t hj
  · rw [memRead_insertCell_other _ _ hj, memRead_eraseCell_other t hj]

/-! ## The canonical form -/

theorem Table.wfFrom_mono {n lo lo' : Nat} {t : Table} (h : Table.wfFrom n lo t = true) (hle : lo' ≤ lo) :
    Table.wfFrom n lo' t = true := by
  cases t with
  | nil => rfl
  | cons e t =>
    obtain ⟨k, w⟩ := e
    simp only [Table.wfFrom, Bool.and_eq_true, decide_eq_true_eq] at h ⊢
    exact ⟨⟨⟨by omega, h.1.1.2⟩, h.1.2⟩, h.2⟩

theorem eraseCell_wfFrom {n lo : Nat} {t : Table} (i : Nat) (h : Table.wfFrom n lo t = true) :
    Table.wfFrom n lo (eraseCell i t) = true := by
  induction t generalizing lo with
  | nil => rfl
  | cons e t ih =>
    obtain ⟨k, w⟩ := e
    simp only [Table.wfFrom, Bool.and_eq_true, decide_eq_true_eq] at h
    by_cases hk : k = i
    · rw [eraseCell, if_pos hk]
      exact Table.wfFrom_mono (ih h.2) (by omega)
    · rw [eraseCell, if_neg hk]
      simp only [Table.wfFrom, Bool.and_eq_true, decide_eq_true_eq]
      exact ⟨h.1, ih h.2⟩

theorem insertCell_wfFrom {n lo i : Nat} {v : Counter} {t : Table} (h : Table.wfFrom n lo t = true) (hlo : lo ≤ i)
    (hi : i < n) (hv : v ≠ freshCounter) (hk : ∀ e ∈ t, e.1 ≠ i) : Table.wfFrom n lo (insertCell i v t) = true := by
  induction t generalizing lo with
  | nil => simp [insertCell, Table.wfFrom, hlo, hi, hv]
  | cons e t ih =>
    obtain ⟨k, w⟩ := e
    have hki : k ≠ i := hk (k, w) (by simp)
    simp only [Table.wfFrom, Bool.and_eq_true, decide_eq_true_eq] at h
    by_cases hlt : i < k
    · rw [insertCell, if_pos hlt]
      simp only [Table.wfFrom, Bool.and_eq_true, decide_eq_true_eq]
      exact ⟨⟨⟨hlo, hi⟩, hv⟩, ⟨⟨by omega, h.1.1.2⟩, h.1.2⟩, h.2⟩
    · rw [insertCell, if_neg hlt]
      simp only [Table.wfFrom, Bool.and_eq_true, decide_eq_true_eq]
      exact ⟨h.1, ih h.2 (by omega) (fun e he => hk e (by simp [he]))⟩

/-- A write inside the table keeps the canonical form. -/
theorem memWrite_wf {n i : Nat} {t : Table} (v : Counter) (h : t.wf n = true) (hi : i < n) :
    (memWrite t i v).wf n = true := by
  unfold memWrite
  split
  · exact eraseCell_wfFrom i h
  · next hv => exact insertCell_wfFrom (eraseCell_wfFrom i h) (Nat.zero_le i) hi hv (eraseCell_keys t i)

@[simp] theorem Table.wf_nil (n : Nat) : Table.wf n [] = true := rfl

/-- Below the first index a canonical list may name, an entry reads as the reset value. -/
theorem memRead_wfFrom_below {n lo i : Nat} {t : Table} (h : Table.wfFrom n lo t = true) (hi : i < lo) :
    memRead t i = freshCounter := by
  induction t generalizing lo with
  | nil => rfl
  | cons e t ih =>
    obtain ⟨k, w⟩ := e
    simp only [Table.wfFrom, Bool.and_eq_true, decide_eq_true_eq] at h
    rw [memRead, if_neg (by omega)]
    exact ih h.2 (by omega)

end Sys2Proof.Machine
end

