-- ==== Sys2Proof/Laws/Units.lean ====
section
/-! SUPPORT. What the units' operations do to an entry, and that an index is always inside its table
(spec 40_counter_primitives.md R88). -/

namespace Sys2Proof.Machine

theorem bimIndex_lt {n : Nat} (a : Addr) (h : 1 ≤ n) : bimIndex a n < n := Nat.mod_lt _ h

theorem xorIndex_lt {n : Nat} (a : Addr) (h : Nat) (hn : 1 ≤ n) : xorIndex a h n < n := Nat.mod_lt _ hn

theorem histShift_lt (h : Nat) (t : Bool) (hb : Nat) : histShift h t hb < 2 ^ hb := Nat.mod_lt _ (Nat.two_pow_pos hb)

/-- The counter's training as a number (R77 to R79). -/
theorem ctrTrain_toNat (c : Counter) (t : Bool) : (ctrTrain c t).toNat = if t then min (c.toNat + 1) 3 else c.toNat - 1 := by
  revert c t
  decide

@[simp] theorem bimUpdate_tableSize (b : Bim) (a : Addr) (t : Bool) : (bimUpdate b a t).tableSize = b.tableSize := rfl

@[simp] theorem gshUpdate_historyBits (g : Gsh) (a : Addr) (t : Bool) :
    (gshUpdate g a t).historyBits = g.historyBits := rfl

@[simp] theorem gshUpdate_h (g : Gsh) (a : Addr) (t : Bool) :
    (gshUpdate g a t).h = histShift g.h t g.historyBits := rfl

/-- The multiplexer, selector up (R111). -/
theorem hybPredict_of_favorG {y : Hyb} {a : Addr} (h : hybFavorG y a = true) : hybPredict y a = gshPredict y.gsh a := by
  simp [hybPredict, h]

/-- The multiplexer, selector down (R111). -/
theorem hybPredict_of_not_favorG {y : Hyb} {a : Addr} (h : hybFavorG y a = false) :
    hybPredict y a = bimPredict y.bim a := by
  simp [hybPredict, h]

@[simp] theorem hybNudge_bim (y : Hyb) (si : Nat) (sc : Counter) (g p t : Bool) : (hybNudge y si sc g p t).bim = y.bim := by
  unfold hybNudge
  split <;> rfl

@[simp] theorem hybNudge_gsh (y : Hyb) (si : Nat) (sc : Counter) (g p t : Bool) : (hybNudge y si sc g p t).gsh = y.gsh := by
  unfold hybNudge
  split <;> rfl

@[simp] theorem hybNudge_hh (y : Hyb) (si : Nat) (sc : Counter) (g p t : Bool) : (hybNudge y si sc g p t).hh = y.hh := by
  unfold hybNudge
  split <;> rfl

@[simp] theorem hybUpdate_bim (y : Hyb) (a : Addr) (t : Bool) : (hybUpdate y a t).bim = bimUpdate y.bim a t := by
  simp [hybUpdate, hybForward, hybAdvance]

@[simp] theorem hybUpdate_gsh (y : Hyb) (a : Addr) (t : Bool) : (hybUpdate y a t).gsh = gshUpdate y.gsh a t := by
  simp [hybUpdate, hybForward, hybAdvance]

@[simp] theorem hybUpdate_hh (y : Hyb) (a : Addr) (t : Bool) :
    (hybUpdate y a t).hh = histShift y.hh t y.gsh.historyBits := by
  simp [hybUpdate, hybForward, hybAdvance]

/-- The selector table after an UPDATE.HYB: unchanged on a hit, one entry moved on a miss (R114). -/
theorem hybUpdate_S (y : Hyb) (a : Addr) (t : Bool) :
    (hybUpdate y a t).S =
      if hybPredict y a = t then y.S
      else memWrite y.S (hybSelIndex y a)
        (if hybFavorG y a then satDec (memRead y.S (hybSelIndex y a)) else satInc (memRead y.S (hybSelIndex y a))) := by
  by_cases h : hybPredict y a = t
  · simp [hybUpdate, hybForward, hybAdvance, hybNudge, h]
  · simp only [hybUpdate, hybForward, hybAdvance, hybNudge, h, if_false]
    rfl

end Sys2Proof.Machine
end

