-- ==== Sys2Proof/Tests/Slice0.lean ====
section
/-! SUPPORT. Tests on fixed values, and for each statement with hypotheses a state and operands that meet them. The expected
results are those of spec/95_test_vectors.md (the vector is named at each test), of spec/30_encoding.md R67 and R72 and of
spec/opcode_table.json, whose encodings are written out bit by bit. -/

open Sys2Proof Sys2Proof.Machine

namespace Sys2Proof.Tests

/-- The small test configuration TCFG of 95_test_vectors.md. -/
def tcfg : Units := ⟨.bim 4, .gsh 2, .hyb 2 4, .none⟩

/-- TCFG after reset. -/
def tstate : State := State.construct tcfg

/-- TCFG with `ADDR_W = 8`. -/
def tconfig : Config := ⟨8, tcfg⟩

/-- The step answers next, with this response and this slot. -/
def answers (o : Host.Outcome State Fault Refusal) (taken : Bool) (err : ErrCode) (sl : SlotId) (v : Slot) : Bool :=
  match o with
  | .next s => decide (s.rsp = some ⟨taken, err⟩) && decide (s.slot sl = v)
  | .fault _ => false
  | .refused _ => false

/-- A table given by its first entries. -/
def tableOf : List Nat → Table → Nat → Table
  | [], t, _ => t
  | v :: rest, t, i => tableOf rest (memWrite t i (BitVec.ofNat 2 v)) (i + 1)

/-- `T=[...]` of 95_test_vectors.md. -/
def tab (l : List Nat) : Table := tableOf l [] 0

/-! ## WellFormed and the configuration: an ill-formed term for each check -/

theorem test_wf_address_on_bus : (Instr.predictBim .u0 false 31).wellFormed ⟨5, Units.default⟩ = true := by decide
theorem test_wf_address_off_bus : (Instr.predictBim .u0 false 32).wellFormed ⟨5, Units.default⟩ = false := by decide
theorem test_wf_nop_address_off_bus : (Instr.nop 0 32).wellFormed ⟨5, Units.default⟩ = false := by decide
theorem test_wf_kind_of_another_unit : (Instr.updateGsh .u0 true 5).wellFormed ⟨5, Units.default⟩ = false := by decide
theorem test_wf_kind_of_no_unit : (Instr.updateHyb .u3 true 5).wellFormed ⟨5, Units.default⟩ = false := by decide
theorem test_wf_none_of_a_unit : (Instr.predictNone .u2 false 5).wellFormed ⟨5, Units.default⟩ = false := by decide
theorem test_config_default_ok : Config.ok ⟨1, Units.default⟩ = true := by decide
theorem test_config_addrW : Config.ok ⟨0, Units.default⟩ = false := by decide
theorem test_config_bim : Config.ok ⟨1, ⟨.bim 0, .none, .none, .none⟩⟩ = false := by decide
theorem test_config_gsh : Config.ok ⟨1, ⟨.none, .gsh 0, .none, .none⟩⟩ = false := by decide
theorem test_config_hyb_history : Config.ok ⟨1, ⟨.none, .none, .hyb 0 1, .none⟩⟩ = false := by decide
theorem test_config_hyb_table : Config.ok ⟨1, ⟨.none, .none, .none, .hyb 1 0⟩⟩ = false := by decide
theorem test_port_address_off_bus : PortInput.fits ⟨5, Units.default⟩ ⟨false, true, true, 0x01#8, 32⟩ = false := by decide
theorem test_table_listed_reset_value : Table.wf 4 [(0, 1)] = false := by decide
theorem test_table_falling : Table.wf 4 [(1, 2), (0, 2)] = false := by decide
theorem test_table_repeated : Table.wf 4 [(1, 2), (1, 3)] = false := by decide
theorem test_table_out_of_range : Table.wf 4 [(4, 2)] = false := by decide
theorem test_table_last_entry : Table.wf 4 [(0, 2), (3, 0)] = true := by decide
theorem test_history_out_of_range : Gsh.wf ⟨2, [], 4⟩ = false := by decide
theorem test_hybrid_history_out_of_range : Hyb.wf ⟨⟨4, []⟩, ⟨2, [], 0⟩, [], 4⟩ = false := by decide

/-! ## Decoding: every row of the table, its encoding written bit by bit with `cmd[7]` first (R67) -/

theorem test_decode_nop : decodeTableWord 8 0b00000000 = some (.nop 0 0) := by decide
theorem test_decode_nop_ignored : decodeTableWord 8 0b11111100 = some (.nop 0b111111#6 0) := by decide
theorem test_decode_predictBim : decodeTableWord 8 0b00000001 = some (.predictBim .u0 false 0) := by decide
theorem test_decode_predictBim_ignored : decodeTableWord 8 0b00010001 = some (.predictBim .u0 true 0) := by decide
theorem test_decode_updateBim_n : decodeTableWord 8 0b00000010 = some (.updateBim .u0 false 0) := by decide
theorem test_decode_updateBim_t : decodeTableWord 8 0b00010010 = some (.updateBim .u0 true 0) := by decide
theorem test_decode_predictGsh : decodeTableWord 8 0b00000101 = some (.predictGsh .u1 false 0) := by decide
theorem test_decode_predictGsh_ignored : decodeTableWord 8 0b00010101 = some (.predictGsh .u1 true 0) := by decide
theorem test_decode_updateGsh_n : decodeTableWord 8 0b00000110 = some (.updateGsh .u1 false 0) := by decide
theorem test_decode_updateGsh_t : decodeTableWord 8 0b00010110 = some (.updateGsh .u1 true 0) := by decide
theorem test_decode_predictHyb : decodeTableWord 8 0b00001001 = some (.predictHyb .u2 false 0) := by decide
theorem test_decode_predictHyb_ignored : decodeTableWord 8 0b00011001 = some (.predictHyb .u2 true 0) := by decide
theorem test_decode_updateHyb_n : decodeTableWord 8 0b00001010 = some (.updateHyb .u2 false 0) := by decide
theorem test_decode_updateHyb_t : decodeTableWord 8 0b00011010 = some (.updateHyb .u2 true 0) := by decide
theorem test_decode_predictNone : decodeTableWord 8 0b00001101 = some (.predictNone .u3 false 0) := by decide
theorem test_decode_predictNone_ignored : decodeTableWord 8 0b00011101 = some (.predictNone .u3 true 0) := by decide
theorem test_decode_updateNone_n : decodeTableWord 8 0b00001110 = some (.updateNone .u3 false 0) := by decide
theorem test_decode_updateNone_t : decodeTableWord 8 0b00011110 = some (.updateNone .u3 true 0) := by decide
theorem test_decode_errOp11 : decodeTableWord 8 0b00000011 = some (.errOp11 0 0) := by decide
theorem test_decode_errOp11_all_ones : decodeTableWord 8 0b11111111 = some (.errOp11 0b111111#6 0) := by decide
theorem test_decode_errRsvdPredictB5 : decodeTableWord 8 0b00100001 = some (.errRsvdPredictB5 0 0 0) := by decide
theorem test_decode_errRsvdPredictB6 : decodeTableWord 8 0b01000001 = some (.errRsvdPredictB6 false 0 0) := by decide
theorem test_decode_errRsvdPredictB7 : decodeTableWord 8 0b10000001 = some (.errRsvdPredictB7 0 0) := by decide
theorem test_decode_errRsvdUpdateB5 : decodeTableWord 8 0b00100010 = some (.errRsvdUpdateB5 0 0 0) := by decide
theorem test_decode_errRsvdUpdateB6 : decodeTableWord 8 0b01000010 = some (.errRsvdUpdateB6 false 0 0) := by decide
theorem test_decode_errRsvdUpdateB7 : decodeTableWord 8 0b10000010 = some (.errRsvdUpdateB7 0 0) := by decide

/-- Two reserved bits set: the row of the lower one, with the other kept (log entry 9). -/
theorem test_decode_two_reserved_bits : decodeTableWord 8 0b11001101 = some (.errRsvdPredictB6 true 0b011#3 0) := by decide

/-- The address stands above the command byte. -/
theorem test_decode_address : decodeTableWord 24 0x123412 = some (.updateBim .u0 true 0x1234) := by decide

/-- The kind is the one configured in the slot the byte names, whichever slot it is (R59). -/
theorem test_decode_by_configuration :
    decode ⟨.hyb 1 1, .bim 1, .none, .gsh 1⟩ ⟨0x01#8, 7⟩ = .predictHyb .u0 false 7 ∧
    decode ⟨.hyb 1 1, .bim 1, .none, .gsh 1⟩ ⟨0x16#8, 7⟩ = .updateBim .u1 true 7 ∧
    decode ⟨.hyb 1 1, .bim 1, .none, .gsh 1⟩ ⟨0x09#8, 7⟩ = .predictNone .u2 false 7 ∧
    decode ⟨.hyb 1 1, .bim 1, .none, .gsh 1⟩ ⟨0x0E#8, 7⟩ = .updateGsh .u3 false 7 := by decide

theorem test_encode_updateGsh : encode (.updateGsh .u1 true 5) = ⟨0b00010110#8, 5⟩ := by decide
theorem test_encode_rsvd : encode (.errRsvdUpdateB6 true 0b011#3 5) = ⟨0b11001110#8, 5⟩ := by decide

/-! ## The assembler (R70, R71, R72) -/

theorem test_line_predict : parseLine "PREDICT u0, 16".toList = some [.predict none .u0 16] := by decide
theorem test_line_suffix : parseLine "UPDATE.HYB u2, 7, T".toList = some [.update (some .hyb) .u2 7 true] := by decide
theorem test_line_hexadecimal : parseLine "OCCUR u1, 0x40, N ; loop exit".toList = some [.occur .u1 64 false] := by decide
theorem test_line_synonym : parseLine "UPDATE  u0, 16, 1".toList = some [.update none .u0 16 true] := by decide
theorem test_line_raw : parseLine "ERR 0x2D, 1".toList = some [.err 0x2D#8 1] := by decide

/-- Log entry 16: the largest byte of an ERR line, and the first value refused. -/
theorem test_line_raw_range : parseLine "ERR 255, 1".toList = some [.err 0xFF#8 1] ∧ parseLine "ERR 256, 1".toList = none := by decide

/-- Log entry 16: OCCUR takes no suffix. -/
theorem test_line_occur_suffix : parseLine "OCCUR.GSH u1, 5, T".toList = none := by decide

theorem test_line_comment : parseLine "; nothing".toList = some [] := by decide
theorem test_line_no_slot : parseLine "PREDICT u4, 16".toList = none := by decide
theorem test_line_no_outcome : parseLine "UPDATE u0, 16".toList = none := by decide

theorem test_assemble_suffix_mismatch : assemble tconfig (.update (some .gsh) .u2 7 true) = none := by decide
theorem test_assemble_address_off_bus : assemble tconfig (.predict none .u0 256) = none := by decide
theorem test_assemble_occur : assemble tconfig (.occur .u1 0x40 true) = some [⟨0x05#8, 64⟩, ⟨0x16#8, 64⟩] := by decide

/-! ## Counters, history, indices (V-CTR-1, V-CTR-2, V-CTR-3) -/

theorem test_ctrTrain :
    [(0, false), (0, true), (1, false), (1, true), (2, false), (2, true), (3, false), (3, true)].map
      (fun e : Counter × Bool => (ctrTrain e.1 e.2).toNat) = [0, 1, 0, 2, 1, 3, 2, 3] := by decide

theorem test_ctrPredict : [0, 1, 2, 3].map (fun c : Counter => ctrPredict c) = [false, false, true, true] := by decide

theorem test_histShift :
    histShift 0 true 2 = 1 ∧ histShift 1 false 2 = 2 ∧ histShift 2 true 2 = 1 ∧ histShift 3 true 2 = 3 ∧
    histShift 3 false 2 = 2 ∧ histShift 0 false 1 = 0 ∧ histShift 1 true 1 = 1 ∧ histShift 0x3FF true 10 = 0x3FF ∧
    histShift 0x200 false 10 = 0 ∧ histShift 0x155 false 10 = 0x2AA := by decide

theorem test_indices :
    bimIndex 5 4 = 1 ∧ bimIndex 9 4 = 1 ∧ bimIndex 0x400 1024 = 0 ∧ bimIndex 7 3 = 1 ∧ bimIndex 255 3 = 0 ∧
    bimIndex 200 1 = 0 ∧ xorIndex 5 1 4 = 0 ∧ xorIndex 0x3FF 1 1024 = 1022 ∧ xorIndex 5 1 3 = 1 ∧
    xorIndex 5 3 3 = 0 ∧ xorIndex 4 0 4 = 0 := by decide

theorem test_errBits : errBits .ok = 0b00#2 ∧ errBits .errOp = 0b01#2 ∧ errBits .errUnit = 0b10#2 := by decide

/-! ## One step of each command -/

/-- V-CTL-1 row 1. -/
theorem test_nop : answers (step (tstate.offer ⟨0xFC#8, 0⟩)) false .ok .u0 (.bim (Bim.construct 4)) = true := by decide

/-- V-BIM-5 row 1: the remainder, not the low bits. -/
theorem test_predictBim :
    answers (step (State.offer { tstate with u0 := .bim ⟨3, tab [1, 2, 1]⟩ } ⟨0x01#8, 4⟩)) true .ok .u0
      (.bim ⟨3, tab [1, 2, 1]⟩) = true := by decide

/-- V-CTL-1 row 10: the ignored bit 4. -/
theorem test_predictBim_ignored :
    answers (step (tstate.offer ⟨0x11#8, 0⟩)) false .ok .u0 (.bim (Bim.construct 4)) = true := by decide

/-- V-BIM-4 row 2: saturated at 3. -/
theorem test_updateBim_saturated :
    answers (step (State.offer { tstate with u0 := .bim ⟨4, tab [1, 1, 3, 1]⟩ } ⟨0x12#8, 2⟩)) true .ok .u0
      (.bim ⟨4, tab [1, 1, 3, 1]⟩) = true := by decide

/-- V-BIM-5 row 3. -/
theorem test_updateBim_remainder :
    answers (step (State.offer { tstate with u0 := .bim ⟨3, tab [1, 2, 1]⟩ } ⟨0x02#8, 255⟩)) false .ok .u0
      (.bim ⟨3, tab [0, 2, 1]⟩) = true := by decide

/-- V-GSH-3 row 3. -/
theorem test_predictGsh :
    answers (step (State.offer { tstate with u1 := .gsh ⟨2, tab [2, 1, 1, 1], 1⟩ } ⟨0x05#8, 1⟩)) true .ok .u1
      (.gsh ⟨2, tab [2, 1, 1, 1], 1⟩) = true := by decide

/-- V-GSH-3 row 2: the index uses the history and drops address bit 2. -/
theorem test_predictGsh_history :
    answers (step (State.offer { tstate with u1 := .gsh ⟨2, tab [2, 1, 1, 1], 1⟩ } ⟨0x05#8, 4⟩)) false .ok .u1
      (.gsh ⟨2, tab [2, 1, 1, 1], 1⟩) = true := by decide

/-- V-GSH-4 row 3: the entry of the old history, then the shift. -/
theorem test_updateGsh :
    answers (step (State.offer { tstate with u1 := .gsh ⟨2, tab [2, 2, 1, 2], 3⟩ } ⟨0x06#8, 0⟩)) true .ok .u1
      (.gsh ⟨2, tab [2, 2, 1, 1], 2⟩) = true := by decide

/-- V-GSH-4 row 2: history bit 1 is shifted out. -/
theorem test_updateGsh_wrap :
    answers (step (State.offer { tstate with u1 := .gsh ⟨2, tab [2, 2, 1, 1], 3⟩ } ⟨0x16#8, 0⟩)) false .ok .u1
      (.gsh ⟨2, tab [2, 2, 1, 2], 3⟩) = true := by decide

/-- V-HYB-2 row 6: GShare favored. -/
theorem test_predictHyb :
    answers (step (State.offer { tstate with
        u2 := .hyb ⟨⟨4, tab [1, 1, 1, 1]⟩, ⟨2, tab [2, 0, 3, 1], 2⟩, tab [2, 2, 2, 1], 2⟩ } ⟨0x09#8, 0⟩)) true .ok .u2
      (.hyb ⟨⟨4, tab [1, 1, 1, 1]⟩, ⟨2, tab [2, 0, 3, 1], 2⟩, tab [2, 2, 2, 1], 2⟩) = true := by decide

/-- V-HYB-1 row 2: Bimodal favored, the sub-predictors disagree. -/
theorem test_predictHyb_bimodal :
    answers (step (State.offer { tstate with u2 := .hyb ⟨⟨1024, [(9, 2)]⟩, ⟨10, [(9, 2)], 1⟩, [(9, 2)], 1⟩ } ⟨0x09#8, 9⟩))
      true .ok .u2 (.hyb ⟨⟨1024, [(9, 2)]⟩, ⟨10, [(9, 2)], 1⟩, [(9, 2)], 1⟩) = true := by decide

/-- V-HYB-4 row 3: GShare favored and wrong, Bimodal right. -/
theorem test_updateHyb :
    answers (step (State.offer { tstate with
        u2 := .hyb ⟨⟨4, tab [0, 1, 1, 1]⟩, ⟨2, tab [2, 0, 0, 1], 0⟩, tab [2, 2, 1, 1], 0⟩ } ⟨0x0A#8, 0⟩)) true .ok .u2
      (.hyb ⟨⟨4, tab [0, 1, 1, 1]⟩, ⟨2, tab [1, 0, 0, 1], 0⟩, tab [1, 2, 1, 1], 0⟩) = true := by decide

/-- V-HYB-5 row 1: a selector size that is not a power of two, two moduli. -/
theorem test_updateHyb_two_moduli :
    answers (step (State.offer { tstate with
        u2 := .hyb ⟨⟨3, tab [1, 1, 2]⟩, ⟨2, tab [1, 2, 1, 1], 1⟩, tab [1, 1, 2], 1⟩ } ⟨0x1A#8, 5⟩)) true .ok .u2
      (.hyb ⟨⟨3, tab [1, 1, 3]⟩, ⟨2, tab [2, 2, 1, 1], 3⟩, tab [1, 1, 2], 3⟩) = true := by decide

/-- V-CTL-1 row 5. -/
theorem test_predictNone : answers (step (tstate.offer ⟨0x0D#8, 1⟩)) false .errUnit .u3 .none = true := by decide

/-- V-CTL-1 row 7. -/
theorem test_updateNone : answers (step (tstate.offer ⟨0x1E#8, 2⟩)) false .errUnit .u3 .none = true := by decide

/-- V-CTL-1 row 3. -/
theorem test_errOp11 : answers (step (tstate.offer ⟨0x23#8, 1⟩)) false .errOp .u0 (.bim (Bim.construct 4)) = true := by decide

/-- V-CTL-1 row 8: `ERR_OP` before `ERR_UNIT`. -/
theorem test_errRsvdPredictB5 : answers (step (tstate.offer ⟨0x2D#8, 1⟩)) false .errOp .u3 .none = true := by decide

/-- 60_exceptions.md R141. -/
theorem test_errRsvdPredictB6 : answers (step (tstate.offer ⟨0x41#8, 1⟩)) false .errOp .u0 (.bim (Bim.construct 4)) = true := by decide

/-- 60_exceptions.md R141. -/
theorem test_errRsvdPredictB7 : answers (step (tstate.offer ⟨0x85#8, 1⟩)) false .errOp .u1 (.gsh (Gsh.construct 2)) = true := by decide

/-- 60_exceptions.md R141. -/
theorem test_errRsvdUpdateB5 : answers (step (tstate.offer ⟨0x3A#8, 1⟩)) false .errOp .u2 (.hyb (Hyb.construct 2 4)) = true := by decide

/-- 60_exceptions.md R141. -/
theorem test_errRsvdUpdateB6 : answers (step (tstate.offer ⟨0x52#8, 1⟩)) false .errOp .u0 (.bim (Bim.construct 4)) = true := by decide

/-- 60_exceptions.md R141. -/
theorem test_errRsvdUpdateB7 : answers (step (tstate.offer ⟨0x96#8, 1⟩)) false .errOp .u1 (.gsh (Gsh.construct 2)) = true := by decide

/-! ## The step and its ports -/

/-- V-BIM-1 row 1: `UPDATE u0, 16, T` as the first command after reset, placed by `withFetchWord`. -/
theorem test_withFetchWord :
    answers (step (State.reset.withFetchWord 16 0x1012)) false .ok .u0 (.bim ⟨1024, [(16, 2)]⟩) = true := by decide

/-- 70_reset_and_hazards.md R160: `rst` wins over an offered command. -/
theorem test_rst_first :
    step { tstate with u0 := .bim ⟨4, [(0, 3)]⟩, u1 := .gsh ⟨2, [(0, 3)], 3⟩, rsp := some ⟨true, .ok⟩,
                       input := [⟨true, true, true, 0x12#8, 0⟩] } = .next tstate := by rfl

/-- 30_encoding.md R55: an offer that is not ready is not accepted. -/
theorem test_not_ready :
    step { tstate with input := [⟨false, true, false, 0x12#8, 0⟩] } = .next tstate := by rfl

/-! ## The hypotheses of the statements can be met -/

theorem witness_DecodeOfEncodeIsTheCommand :
    (Instr.nop 0b111111#6 255).wellFormed tconfig = true ∧ (Instr.updateBim .u0 true 255).wellFormed tconfig = true ∧
    (Instr.predictGsh .u1 true 0).wellFormed tconfig = true ∧ (Instr.updateHyb .u2 false 255).wellFormed tconfig = true ∧
    (Instr.predictNone .u3 true 0).wellFormed tconfig = true ∧ (Instr.errOp11 0 255).wellFormed tconfig = true ∧
    (Instr.errRsvdPredictB5 0b11#2 0b111#3 0).wellFormed tconfig = true ∧
    (Instr.errRsvdUpdateB7 0b111#3 255).wellFormed tconfig = true := by decide

theorem witness_EncodeOfDecodeIsTheTransfer : addrFits tconfig 0 = true ∧ addrFits tconfig 255 = true := by decide

/-- A byte for each line of the procedure: NOP, the two errors of the fields, the unconfigured slot, and both operations of
each kind. -/
theorem witness_DecodeIsTheProcedureOfTheSpec :
    ((0xFC : Nat) / 4 % 4 = (slotBits .u3).toNat ∧ (0xFC : Nat) % 4 = 0) ∧
    ((0x03 : Nat) / 4 % 4 = (slotBits .u0).toNat ∧ (0x03 : Nat) % 4 = 3) ∧
    ((0x81 : Nat) / 4 % 4 = (slotBits .u0).toNat ∧ (0x81 : Nat) % 4 = 1 ∧ (0x81 : Nat) / 32 ≠ 0) ∧
    ((0x1E : Nat) / 4 % 4 = (slotBits .u3).toNat ∧ (0x1E : Nat) % 4 = 2 ∧ (0x1E : Nat) / 32 = 0 ∧ tcfg.get .u3 = .none ∧
      tstate.slot .u3 = .none) ∧
    ((0x0D : Nat) / 4 % 4 = (slotBits .u3).toNat ∧ (0x0D : Nat) % 4 = 1 ∧ (0x0D : Nat) / 32 = 0) ∧
    ((0x01 : Nat) / 4 % 4 = (slotBits .u0).toNat ∧ (0x01 : Nat) % 4 = 1 ∧ (0x01 : Nat) / 32 = 0 ∧ tcfg.get .u0 = .bim 4) ∧
    ((0x12 : Nat) / 4 % 4 = (slotBits .u0).toNat ∧ (0x12 : Nat) % 4 = 2 ∧ (0x12 : Nat) / 32 = 0) ∧
    ((0x15 : Nat) / 4 % 4 = (slotBits .u1).toNat ∧ (0x15 : Nat) % 4 = 1 ∧ (0x15 : Nat) / 32 = 0 ∧ tcfg.get .u1 = .gsh 2) ∧
    ((0x06 : Nat) / 4 % 4 = (slotBits .u1).toNat ∧ (0x06 : Nat) % 4 = 2 ∧ (0x06 : Nat) / 32 = 0) ∧
    ((0x09 : Nat) / 4 % 4 = (slotBits .u2).toNat ∧ (0x09 : Nat) % 4 = 1 ∧ (0x09 : Nat) / 32 = 0) ∧
    ((0x1A : Nat) / 4 % 4 = (slotBits .u2).toNat ∧ (0x1A : Nat) % 4 = 2 ∧ (0x1A : Nat) / 32 = 0 ∧
      tcfg.get .u2 = .hyb 2 4) := by decide

theorem witness_EncodingExamples : 5 ≤ 5 ∧ State.reset.units = Units.default := by decide

theorem witness_IgnoredBitsHaveNoEffect :
    ((0x00 : Nat) % 4 = 0 ∧ (0xFC : Nat) % 4 = 0) ∧
    ((0x09 : Nat) % 4 = 1 ∧ (0x19 : Nat) % 4 = 1 ∧ (0x09 : Nat) / 4 % 4 = (0x19 : Nat) / 4 % 4 ∧
      (0x09 : Nat) / 32 = (0x19 : Nat) / 32) ∧
    ((0xE1 : Nat) % 4 = 1 ∧ (0xF1 : Nat) % 4 = 1 ∧ (0xE1 : Nat) / 4 % 4 = (0xF1 : Nat) / 4 % 4 ∧
      (0xE1 : Nat) / 32 = (0xF1 : Nat) / 32) := by decide

/-- The first and the last address on the bus, the first off it, a fitting, an absent and a wrong suffix, and a line that
assembles to two commands. -/
theorem witness_AssembledCommands :
    (0 < 2 ^ tconfig.addrW ∧ 255 < 2 ^ tconfig.addrW ∧ 2 ^ tconfig.addrW ≤ 256) ∧
    (tconfig.units.get .u2).kind = some .hyb ∧ (tconfig.units.get .u3).kind ≠ some .bim ∧
    ((∀ b a, AsmLine.occur .u1 255 true ≠ .err b a) ∧
      assemble tconfig (.occur .u1 255 true) = some [⟨0x05#8, 255⟩, ⟨0x16#8, 255⟩]) := by
  refine ⟨by decide, by decide, by decide, ?_, by decide⟩
  intro b a h
  cases h

/-- An accepted command, with more to come. -/
def offered : State := tstate.offers [⟨0x12#8, 0⟩, ⟨0x01#8, 0⟩]

theorem witness_StepRunsTheAcceptedCommand :
    offered.input = ⟨false, true, true, 0x12#8, 0⟩ :: [⟨false, true, true, 0x01#8, 0⟩] := by decide

theorem witness_AcceptedCommandHasNextStateAndResponse :
    offered.input = ⟨false, true, true, 0x12#8, 0⟩ :: [⟨false, true, true, 0x01#8, 0⟩] := by decide

theorem witness_ResetGivesEveryStateItsValue :
    ∃ (s : State) (p : PortInput) (rest : List PortInput), s.input = p :: rest ∧ p.rst = true ∧ s.slot .u0 = .bim ⟨4, [(0, 3)]⟩ :=
  ⟨{ tstate with u0 := .bim ⟨4, [(0, 3)]⟩, input := [⟨true, true, true, 0x12#8, 0⟩] }, _, _, rfl, rfl, rfl⟩

theorem witness_IdleStepKeepsTheState :
    tstate.input = [] ∧
    (∃ (s : State) (p : PortInput) (rest : List PortInput), s.input = p :: rest ∧ p.rst = false ∧ p.reqValid = false) ∧
    (∃ (s : State) (p : PortInput) (rest : List PortInput), s.input = p :: rest ∧ p.rst = false ∧ p.reqReady = false) :=
  ⟨rfl, ⟨{ tstate with input := [⟨false, false, true, 0x12#8, 0⟩] }, _, _, rfl, rfl, rfl⟩,
    ⟨{ tstate with input := [⟨false, true, false, 0x12#8, 0⟩] }, _, _, rfl, rfl, rfl⟩⟩

theorem witness_NopResult : (0x00#8 : Byte).toNat % 4 = 0 ∧ (0xFC#8 : Byte).toNat % 4 = 0 := by decide

theorem witness_PredictBimResult : tstate.slot .u0 = .bim (Bim.construct 4) := by decide
theorem witness_UpdateBimResult : tstate.slot .u0 = .bim (Bim.construct 4) := by decide
theorem witness_PredictGshResult : tstate.slot .u1 = .gsh (Gsh.construct 2) := by decide
theorem witness_UpdateGshResult : tstate.slot .u1 = .gsh (Gsh.construct 2) := by decide
theorem witness_PredictHybResult : tstate.slot .u2 = .hyb (Hyb.construct 2 4) := by decide
theorem witness_UpdateHybResult : tstate.slot .u2 = .hyb (Hyb.construct 2 4) := by decide

theorem witness_UnconfiguredSlotResult :
    tstate.slot .u3 = .none ∧
    ((0x1D#8 : Byte).toNat % 4 = 1 ∧ (0x1D#8 : Byte).toNat / 4 % 4 = (slotBits .u3).toNat ∧ (0x1D#8 : Byte).toNat / 32 = 0) ∧
    ((0x0E#8 : Byte).toNat % 4 = 2 ∧ (0x0E#8 : Byte).toNat / 4 % 4 = (slotBits .u3).toNat ∧
      (0x0E#8 : Byte).toNat / 32 = 0) := by decide

theorem witness_MalformedCommandResult :
    (0xFF#8 : Byte).toNat % 4 = 3 ∧ ((0x21#8 : Byte).toNat % 4 = 1 ∧ (0x21#8 : Byte).toNat / 32 ≠ 0) ∧
    ((0xFE#8 : Byte).toNat % 4 = 2 ∧ (0xFE#8 : Byte).toNat / 32 ≠ 0) := by decide

theorem witness_ErrOpBeforeErrUnit :
    tstate.slot .u3 = .none ∧
    ((0x2D#8 : Byte).toNat / 4 % 4 = (slotBits .u3).toNat ∧ (0x2D#8 : Byte).toNat % 4 ≠ 0 ∧ (0x2D#8 : Byte).toNat / 32 ≠ 0) ∧
    ((0x0F#8 : Byte).toNat / 4 % 4 = (slotBits .u3).toNat ∧ (0x0F#8 : Byte).toNat % 4 = 3) ∧
    ((0xFC#8 : Byte).toNat / 4 % 4 = (slotBits .u3).toNat ∧ (0xFC#8 : Byte).toNat % 4 = 0) := by decide

theorem witness_MnemonicOfAnotherKindIsRefused :
    (∀ b, tstate.slot .u3 ≠ .bim b) ∧ (∀ g, tstate.slot .u0 ≠ .gsh g) ∧ (∀ y, tstate.slot .u1 ≠ .hyb y) ∧
    tstate.slot .u2 ≠ .none := by
  refine ⟨?_, ?_, ?_, by decide⟩ <;> intro v h <;> cases h

theorem witness_NonTrainingCommandsChangeTheResponseOnly :
    exec (.predictHyb .u2 true 5) tstate = .next { tstate with rsp := some ⟨false, .ok⟩ } ∧
    (∀ sl t a, Instr.predictHyb .u2 true 5 ≠ .updateBim sl t a) ∧ (∀ sl t a, Instr.predictHyb .u2 true 5 ≠ .updateGsh sl t a) ∧
    (∀ sl t a, Instr.predictHyb .u2 true 5 ≠ .updateHyb sl t a) := by
  refine ⟨by rfl, ?_, ?_, ?_⟩ <;> intro sl t a h <;> cases h

/-- What `UPDATE u0, 0, T` leaves. -/
def trained : State :=
  { tstate with u0 := .bim ⟨4, [(0, 2)]⟩, rsp := some ⟨false, .ok⟩, input := [⟨false, true, true, 0x01#8, 0⟩] }

theorem witness_OnlySuccessfulUpdatesChangeState :
    step offered = .next trained ∧ trained.slot .u0 ≠ offered.slot .u0 := ⟨by rfl, by decide⟩

theorem witness_ConfigurationNeverChanges : step offered = .next trained := by rfl

theorem witness_CommandSeesAndChangesOneSlotOnly :
    ((Instr.updateBim .u0 true 0).target = some (.u0, some .bim) ∧
      tstate.slot .u0 = State.slot { tstate with u2 := .none } .u0 ∧
      ∃ t₁, exec (.updateBim .u0 true 0) tstate = .next t₁) ∧
    (Instr.errRsvdPredictB5 0 0 0).target = none :=
  ⟨⟨rfl, rfl, _, rfl⟩, rfl⟩

theorem witness_UpdateRespondsWithThePrediction :
    (∃ s₁, exec (.predictBim .u0 false 3) tstate = .next s₁) ∧ (∃ s₁, exec (.predictGsh .u1 true 3) tstate = .next s₁) ∧
    (∃ s₁, exec (.predictHyb .u2 false 3) tstate = .next s₁) := ⟨⟨_, rfl⟩, ⟨_, rfl⟩, ⟨_, rfl⟩⟩

theorem witness_PredictIsIdempotent : (0x1D#8 : Byte).toNat % 4 = 1 := by decide

theorem witness_CommandsToDifferentSlotsCommute :
    (decode tstate.units ⟨0x12#8, 0⟩).target = some (.u0, some .bim) ∧
    (decode tstate.units ⟨0x1A#8, 0⟩).target = some (.u2, some .hyb) ∧ SlotId.u0 ≠ .u2 := by decide

theorem witness_CounterSaturation : 3 ≤ 3 := by decide

/-- `k = 0`, `k = hb - 1` and `k = hb` of a register of 2 bits. -/
theorem witness_HistoryShift : 0 < 2 ∧ (1 ≤ 1 ∧ 1 < 2) ∧ 2 ≤ 2 := by decide

/-- One outcome into 2 bits: `k = 0` holds it, `k = 1` the old bit 0, `k = 2` nothing. -/
theorem witness_HistoryAfterManyShifts :
    0 < min [true].length 2 ∧ ([true].length ≤ 1 ∧ 1 < 2) ∧ (0 < [true].length ∧ 2 ≤ 2) := by decide

/-- Three UPDATEs that train the slot, among a PREDICT to it, an UPDATE to another slot and a malformed UPDATE: three outcomes
into two bits, with `k` on both sides of the bound. -/
theorem witness_GshHistoryIsTheLastOutcomes :
    tcfg.get .u1 = .gsh 2 ∧
    (([⟨0x16#8, 0⟩, ⟨0x05#8, 0⟩, ⟨0x06#8, 1⟩, ⟨0x12#8, 2⟩, ⟨0x36#8, 0⟩, ⟨0x16#8, 2⟩] : List Command).filter
      (trains tcfg .u1)).map (fun x => decide (x.cmd.toNat / 16 % 2 = 1)) = [true, false, true] ∧
    1 < min [true, false, true].length 2 ∧ min [true, false, true].length 2 ≤ 2 := by decide

theorem witness_IndicesAreInBounds : 1 ≤ 1 := by decide

theorem witness_IndexOfPowerOfTwoSizeIsTheLowBits : 1023 < 2 ^ 10 := by decide

/-- Two accesses with different addresses that share entry 1, and the top history value. -/
theorem witness_WhenGshAccessesShareAnEntry :
    (⟨2, [], 0⟩ : Gsh).historyBits = (⟨2, [], 3⟩ : Gsh).historyBits ∧ 0 < 2 ^ 2 ∧ 3 < 2 ^ 2 ∧
    gshIndex ⟨2, [], 0⟩ 5 = gshIndex ⟨2, [], 3⟩ 2 ∧ gshIndex ⟨2, [], 3⟩ 2 = gshIndex ⟨2, [(0, 3)], 3⟩ 2 := by decide

theorem witness_TablePrimitives : (1 : Nat) ≠ 0 := by decide

theorem witness_TablesAreTheirEntries :
    Table.wf 4 [(0, 2), (3, 0)] = true ∧ Table.wf 4 (memWrite (memWrite [] 3 0) 0 2) = true ∧
    (∀ i, i < 4 → memRead [(0, 2), (3, 0)] i = memRead (memWrite (memWrite [] 3 0) 0 2) i) ∧ 3 < 4 := by decide

theorem witness_BimAliasing :
    tstate.slot .u0 = .bim (Bim.construct 4) ∧ 5 % (Bim.construct 4).tableSize = 9 % (Bim.construct 4).tableSize := by decide

theorem witness_BimStateIsTheFoldOfItsUpdates :
    tstate.slot .u0 = .bim (Bim.construct 4) ∧ State.slot { tstate with u1 := .none } .u0 = .bim (Bim.construct 4) ∧
    (Bim.construct 4).wf = true ∧ 0 % (Bim.construct 4).tableSize ≠ 3 % (Bim.construct 4).tableSize := by decide

/-- A hybrid that favors GShare at address 0 (V-HYB-4 row 3). -/
def favorsG : Hyb := ⟨⟨4, [(0, 0)]⟩, ⟨2, [(0, 2), (1, 0), (2, 0)], 0⟩, [(0, 2), (1, 2)], 0⟩

theorem witness_SelectorMovesAwayFromAWrongChoice :
    (hybFavorG (Hyb.construct 2 4) 0 = false ∧ bimPredict (Hyb.construct 2 4).bim 0 = false ∧
      bimPredict (Hyb.construct 2 4).bim 0 ≠ true ∧
      ∃ s' y', exec (.updateHyb .u2 true 0) tstate = .next s' ∧ s'.slot .u2 = .hyb y') ∧
    (hybFavorG favorsG 0 = true ∧ gshPredict favorsG.gsh 0 = true ∧ gshPredict favorsG.gsh 0 ≠ false ∧
      ∃ s' y', exec (.updateHyb .u2 false 0) { tstate with u2 := .hyb favorsG } = .next s' ∧ s'.slot .u2 = .hyb y') :=
  ⟨⟨by decide, by decide, by decide, _, _, rfl, rfl⟩, by decide, by decide, by decide, _, _, rfl, rfl⟩

theorem witness_HybridConsistency :
    tstate.slot .u2 = .hyb (Hyb.construct 2 4) ∧ hybFavorG (Hyb.construct 2 4) 0 = false ∧
    State.slot { tstate with u2 := .hyb favorsG } .u2 = .hyb favorsG ∧ hybFavorG favorsG 0 = true := by decide

/-- A state reached after one training, so that a selector entry holds 2. -/
theorem witness_ReachableHistoriesAreEqual : ∃ s, Reachable tconfig s ∧ s.slot .u2 =
    .hyb ⟨⟨4, [(0, 2)]⟩, ⟨2, [(0, 2)], 1⟩, [(0, 2)], 1⟩ :=
  ⟨_, .afterStep _ _ (.afterReset [⟨false, true, true, 0x1A#8, 0⟩] (by decide) (by decide)) (by rfl), by decide⟩

theorem witness_ReachableSelectorIsAToggle :
    ∃ s y, Reachable tconfig s ∧ s.slot .u2 = .hyb y ∧ hybPredict y 0 ≠ true :=
  ⟨_, _, .afterReset [] (by decide) (by decide), rfl, by decide⟩

theorem witness_RederivedPredictionIsTheDeliveredOne :
    tstate.slot .u2 = .hyb (Hyb.construct 2 4) ∧
    ∀ c ∈ [(⟨0x12#8, 5⟩ : Command), ⟨0x09#8, 5⟩, ⟨0x3A#8, 5⟩], trains tstate.units .u2 c = false := by decide

theorem witness_ElaborationRefusesBadConfigurations :
    elaborate tconfig = some (State.construct tcfg) ∧ elaborate ⟨0, tcfg⟩ = none ∧
    elaborate ⟨8, ⟨.none, .none, .none, .hyb 1 0⟩⟩ = none := by decide

theorem witness_ConstructionMeetsTheInvariants : tconfig.ok = true := by decide

theorem witness_StepKeepsWellFormed : offered.wf = true ∧ step offered = .next trained := ⟨by decide, by rfl⟩

theorem witness_StepKeepsTheHybridInvariants :
    ∃ s', step (tstate.offer ⟨0x1A#8, 0⟩) = .next s' ∧ (tstate.slot .u2).EqualHistories ∧ (tstate.slot .u2).SelectorIsToggle :=
  ⟨_, rfl, rfl, fun _ => .inl rfl⟩

theorem witness_FirstPredictionIsNotTaken :
    (State.construct tcfg).slot .u0 = .bim (Bim.construct 4) ∧ (State.construct tcfg).slot .u1 = .gsh (Gsh.construct 2) ∧
    (State.construct tcfg).slot .u2 = .hyb (Hyb.construct 2 4) := by decide

end Sys2Proof.Tests
end

/-! PROOFS. What `State.reset` holds (spec 00_scope.md R11, 70_reset_and_hazards.md R161). -/

namespace Sys2Proof.Machine

@[simp] theorem State.reset_slot (sl : SlotId) : State.reset.slot sl = Slot.construct (Units.default.get sl) :=
  State.construct_slot Units.default sl

@[simp] theorem State.reset_rsp : State.reset.rsp = none := rfl
@[simp] theorem State.reset_input : State.reset.input = [] := rfl

/-- Settles O13: each slot is its construction state under the default configuration, and `Units.default` names its kind and
parameters. -/
theorem resetIsTheDefaultArray : Obligations.ResetIsTheDefaultArray :=
  ⟨State.reset_slot .u0, State.reset_slot .u1, State.reset_slot .u2, State.reset_slot .u3, State.reset_rsp,
    State.reset_input⟩

end Sys2Proof.Machine

/-! PROOFS. What every step keeps, and which commands change a slot (spec 10_state.md R21, R24, R29, R33).

Everything rests on one inversion, `step_slot_cases`: after a step a slot is what it was, or its construction value
(`rst`), or trained once by the accepted UPDATE to it. -/

namespace Sys2Proof.Machine

/-! ## All four slots at once -/

theorem forall_slotId {P : SlotId → Prop} : (∀ sl, P sl) ↔ P .u0 ∧ P .u1 ∧ P .u2 ∧ P .u3 := by
  constructor
  · exact fun h => ⟨h .u0, h .u1, h .u2, h .u3⟩
  · rintro ⟨h0, h1, h2, h3⟩ sl
    cases sl <;> assumption

theorem State.wf_iff {s : State} : s.wf = true ↔ ∀ sl, (s.slot sl).wf = true := by
  simp [State.wf, State.slot, forall_slotId, and_assoc]

theorem units_ok_iff {u : Units} : u.ok = true ↔ ∀ sl, (u.get sl).ok = true := by
  simp [Units.ok, Units.get, forall_slotId, and_assoc]

theorem units_eq_of_get {u v : Units} (h : ∀ sl, u.get sl = v.get sl) : u = v := by
  obtain ⟨h0, h1, h2, h3⟩ := forall_slotId.mp h
  cases u
  cases v
  exact (Units.mk.injEq ..).mpr ⟨h0, h1, h2, h3⟩

/-! ## Construction (R161) -/

theorem Slot.construct_wf {u : UnitConfig} (h : u.ok = true) : (Slot.construct u).wf = true := by
  cases u <;>
    simp_all [Slot.construct, Slot.wf, Bim.construct, Gsh.construct, Hyb.construct, Bim.wf, Gsh.wf, Hyb.wf, freshHistory,
      UnitConfig.ok]

theorem Slot.construct_equalHistories (u : UnitConfig) : (Slot.construct u).EqualHistories := by
  cases u with
  | hyb hb n => exact rfl
  | none | bim n | gsh hb => trivial

theorem Slot.construct_selectorIsToggle (u : UnitConfig) : (Slot.construct u).SelectorIsToggle := by
  cases u with
  | hyb hb n => exact fun i => .inl (memRead_nil i)
  | none | bim n | gsh hb => trivial

theorem State.construct_wf {u : Units} (h : u.ok = true) : (State.construct u).wf = true :=
  State.wf_iff.mpr fun sl => State.construct_slot u sl ▸ Slot.construct_wf (units_ok_iff.mp h sl)

/-- A slot in range is one of a configuration that exists (R145). -/
theorem Slot.config_ok {v : Slot} (h : v.wf = true) : v.config.ok = true := by
  cases v <;> simp_all [Slot.wf, Slot.config, UnitConfig.ok, Bim.wf, Gsh.wf, Hyb.wf]

theorem Slot.config_eq_none {v : Slot} : v.config = .none ↔ v = .none := by
  cases v <;> simp [Slot.config]

/-! ## Training a slot -/

/-- The write of the UPDATE whose kind is the slot's (R91, R101, R112). -/
def Slot.train (a : Addr) (t : Bool) : Slot → Slot
  | .none => .none
  | .bim b => .bim (bimUpdate b a t)
  | .gsh g => .gsh (gshUpdate g a t)
  | .hyb y => .hyb (hybUpdate y a t)

@[simp] theorem Slot.train_config (a : Addr) (t : Bool) (v : Slot) : (v.train a t).config = v.config := by
  cases v <;> simp [Slot.train, Slot.config]

theorem bimUpdate_wf {b : Bim} (a : Addr) (t : Bool) (h : b.wf = true) : (bimUpdate b a t).wf = true := by
  simp only [Bim.wf, Bool.and_eq_true, decide_eq_true_eq] at h ⊢
  exact ⟨h.1, memWrite_wf _ h.2 (bimIndex_lt a h.1)⟩

theorem gshUpdate_wf {g : Gsh} (a : Addr) (t : Bool) (h : g.wf = true) : (gshUpdate g a t).wf = true := by
  simp only [Gsh.wf, Bool.and_eq_true, decide_eq_true_eq] at h ⊢
  obtain ⟨⟨hbits, htable⟩, -⟩ := h
  exact ⟨⟨hbits, memWrite_wf _ htable (xorIndex_lt a g.h Nat.one_le_two_pow)⟩, histShift_lt _ _ _⟩

theorem hybUpdate_wf {y : Hyb} (a : Addr) (t : Bool) (h : y.wf = true) : (hybUpdate y a t).wf = true := by
  simp only [Hyb.wf, Bool.and_eq_true, decide_eq_true_eq] at h
  obtain ⟨⟨⟨hbim, hgsh⟩, hsel⟩, -⟩ := h
  have hsize : 1 ≤ y.bim.tableSize := by simp_all [Bim.wf]
  have hsel' : (hybUpdate y a t).S.wf y.bim.tableSize = true := by
    rw [hybUpdate_S]
    split
    · exact hsel
    · exact memWrite_wf _ hsel (xorIndex_lt a y.hh hsize)
  simp [Hyb.wf, bimUpdate_wf a t hbim, gshUpdate_wf a t hgsh, hsel', histShift_lt]

theorem Slot.train_wf {v : Slot} (a : Addr) (t : Bool) (h : v.wf = true) : (v.train a t).wf = true := by
  cases v with
  | none => rfl
  | bim b => exact bimUpdate_wf a t h
  | gsh g => exact gshUpdate_wf a t h
  | hyb y => exact hybUpdate_wf a t h

/-! ## Which commands train a slot -/

theorem trains_eq_false_of_not_update {u : Units} {c : Command} (sl : SlotId)
    (h : ¬(cmdOp c.cmd = 0b10#2 ∧ cmdRsvd c.cmd = 0b000#3)) : trains u sl c = false := by
  rcases cmd_cases c.cmd with hop | hop | ⟨hop, hr⟩ | ⟨hop, hr⟩ | hu | ⟨hop, hr⟩
  · rw [trains, decode_nop hop]
  · rw [trains, decode_op11 hop]
  · rw [trains, decode_predict hop hr, decodePredict]
    cases u.get (slotOfBits (cmdUnit c.cmd)) <;> rfl
  · rw [trains, decode_rsvdPredict hop hr, decodeRsvdPredict]
    split_ifs <;> rfl
  · exact absurd hu h
  · rw [trains, decode_rsvdUpdate hop hr, decodeRsvdUpdate]
    split_ifs <;> rfl

theorem trains_of_update {u : Units} {c : Command} (sl : SlotId) (hop : cmdOp c.cmd = 0b10#2)
    (hr : cmdRsvd c.cmd = 0b000#3) :
    trains u sl c = (decide (slotOfBits (cmdUnit c.cmd) = sl) && decide (u.get (slotOfBits (cmdUnit c.cmd)) ≠ .none)) := by
  rw [trains, decode_update hop hr, decodeUpdate]
  cases u.get (slotOfBits (cmdUnit c.cmd)) <;> simp

/-- The fields of a command that trains slot `sl` (R58 to R61, R67). -/
theorem trains_iff {u : Units} {sl : SlotId} {c : Command} :
    trains u sl c = true ↔ cmdOp c.cmd = 0b10#2 ∧ cmdRsvd c.cmd = 0b000#3 ∧ slotOfBits (cmdUnit c.cmd) = sl ∧
      u.get sl ≠ .none := by
  by_cases hu : cmdOp c.cmd = 0b10#2 ∧ cmdRsvd c.cmd = 0b000#3
  · obtain ⟨hop, hr⟩ := hu
    simp only [trains_of_update sl hop hr, hop, hr, true_and, Bool.and_eq_true, decide_eq_true_eq]
    exact and_congr_right fun hsl => by rw [hsl]
  · rw [trains_eq_false_of_not_update sl hu]
    tauto

/-- The byte of a command that trains slot `sl`, as arithmetic. -/
theorem cmd_toNat_of_trains {u : Units} {sl : SlotId} {c : Command} (h : trains u sl c = true) :
    c.cmd.toNat % 4 = 2 ∧ c.cmd.toNat / 32 = 0 ∧ c.cmd.toNat / 4 % 4 = (slotBits sl).toNat := by
  obtain ⟨hop, hr, rfl, -⟩ := trains_iff.mp h
  refine ⟨?_, ?_, ?_⟩
  · rw [← cmdOp_toNat, hop]; rfl
  · rw [← cmdRsvd_toNat, hr]; rfl
  · rw [← cmdUnit_toNat, slotBits_slotOfBits]

theorem trains_unique {u : Units} {sl sl' : SlotId} {c : Command} (h : trains u sl c = true) (h' : trains u sl' c = true) :
    sl' = sl := by
  obtain ⟨-, -, hsl, -⟩ := trains_iff.mp h
  obtain ⟨-, -, hsl', -⟩ := trains_iff.mp h'
  exact hsl'.symm.trans hsl

/-! ## What a decoded command does -/

/-- A command that trains a slot trains it by the address and the outcome bit, and responds without error. -/
theorem exec_of_trains {s : State} {sl : SlotId} {c : Command} (h : trains s.units sl c = true) :
    ∃ b, exec (decode s.units c) s = .next ((s.setSlot sl ((s.slot sl).train c.addr (cmdT c.cmd))).respond b .ok) := by
  obtain ⟨hop, hr, rfl, hn⟩ := trains_iff.mp h
  rw [decode_update hop hr, decodeUpdate]
  cases hs : s.slot (slotOfBits (cmdUnit c.cmd)) with
  | none => simp [hs, Slot.config] at hn
  | bim b => exact ⟨bimPredict b c.addr, by simp [hs, Slot.config, exec, execUpdateBim_eq _ _ hs, Slot.train]⟩
  | gsh g => exact ⟨gshPredict g c.addr, by simp [hs, Slot.config, exec, execUpdateGsh_eq _ _ hs, Slot.train]⟩
  | hyb y => exact ⟨hybPredict y c.addr, by simp [hs, Slot.config, exec, execUpdateHyb_eq _ _ hs, Slot.train]⟩

theorem exec_decodePredict (s : State) (c : Command) :
    ∃ b e, exec (decodePredict s.units c) s = .next (s.respond b e) := by
  rw [decodePredict]
  cases hs : s.slot (slotOfBits (cmdUnit c.cmd)) with
  | none => exact ⟨false, .errUnit, by simp [hs, Slot.config, exec, execPredictNone_eq _ _ hs]⟩
  | bim b => exact ⟨bimPredict b c.addr, .ok, by simp [hs, Slot.config, exec, execPredictBim_eq _ _ hs]⟩
  | gsh g => exact ⟨gshPredict g c.addr, .ok, by simp [hs, Slot.config, exec, execPredictGsh_eq _ _ hs]⟩
  | hyb y => exact ⟨hybPredict y c.addr, .ok, by simp [hs, Slot.config, exec, execPredictHyb_eq _ _ hs]⟩

theorem exec_decodeUpdate_unconfigured {s : State} {c : Command} (h : s.slot (slotOfBits (cmdUnit c.cmd)) = .none) :
    exec (decodeUpdate s.units c) s = .next (s.respond false .errUnit) := by
  simp [decodeUpdate, h, Slot.config, exec, execUpdateNone_eq _ _ h]

/-- Every other command changes the response only. -/
theorem exec_of_not_trains {s : State} {c : Command} (h : ∀ sl, trains s.units sl c = false) :
    ∃ b e, exec (decode s.units c) s = .next (s.respond b e) := by
  rcases cmd_cases c.cmd with hop | hop | ⟨hop, hr⟩ | ⟨hop, hr⟩ | ⟨hop, hr⟩ | ⟨hop, hr⟩
  · exact ⟨false, .ok, by rw [decode_nop hop]; rfl⟩
  · exact ⟨false, .errOp, by rw [decode_op11 hop]; rfl⟩
  · rw [decode_predict hop hr]
    exact exec_decodePredict s c
  · rw [decode_rsvdPredict hop hr, decodeRsvdPredict]
    exact ⟨false, .errOp, by split_ifs <;> rfl⟩
  · have hnone : s.slot (slotOfBits (cmdUnit c.cmd)) = .none := by
      simpa [trains_iff, hop, hr, Bool.eq_false_iff, Slot.config_eq_none] using h (slotOfBits (cmdUnit c.cmd))
    rw [decode_update hop hr]
    exact ⟨false, .errUnit, exec_decodeUpdate_unconfigured hnone⟩
  · rw [decode_rsvdUpdate hop hr, decodeRsvdUpdate]
    exact ⟨false, .errOp, by split_ifs <;> rfl⟩

/-! ## The inversion of the step, slot by slot -/

theorem step_accepted {s : State} {p : PortInput} {rest : List PortInput} (h : s.input = p :: rest)
    (ha : p.accepts = true) : step s = exec (decode s.units p.command) { s with input := rest } := by
  simp [step, h, PortInput.rst_of_accepts ha, ha]

/-- What an accepted command `c` makes of the state `v` of slot `sl`. -/
def Slot.after (u : Units) (sl : SlotId) (v : Slot) (c : Command) : Slot :=
  if trains u sl c then v.train c.addr (cmdT c.cmd) else v

/-- A step with an accepted command answers, takes that entry of the ports, and trains the slot the command trains, without
error. -/
theorem step_of_accepts {s : State} {p : PortInput} {rest : List PortInput} (h : s.input = p :: rest)
    (ha : p.accepts = true) :
    ∃ s' r, step s = .next s' ∧ s'.input = rest ∧ s'.rsp = some r ∧
      ∀ sl, s'.slot sl = (s.slot sl).after s.units sl p.command ∧ (trains s.units sl p.command = true → r.err = .ok) := by
  rw [step_accepted h ha]
  by_cases ht : ∃ sl, trains s.units sl p.command = true
  · obtain ⟨sl, ht⟩ := ht
    obtain ⟨b, he⟩ := exec_of_trains (s := { s with input := rest }) ht
    refine ⟨_, _, he, by simp, rfl, fun sl' => ⟨?_, fun _ => rfl⟩⟩
    by_cases hsl : sl' = sl
    · subst hsl
      simp [Slot.after, ht]
    · have hn : trains s.units sl' p.command ≠ true := fun ht' => hsl (trains_unique ht ht')
      simp [Slot.after, hn, State.slot_setSlot_other _ _ hsl]
  · simp only [not_exists, Bool.not_eq_true] at ht
    obtain ⟨b, e, he⟩ := exec_of_not_trains (s := { s with input := rest }) ht
    exact ⟨_, _, he, rfl, rfl, fun sl => ⟨by simp [Slot.after, ht], by simp [ht]⟩⟩

/-- Everything a step can make of a slot: leave it, put it to its construction value at `rst`, or train it by an accepted
UPDATE to it, without error. -/
theorem step_slot_cases {s s' : State} (h : step s = .next s') (sl : SlotId) :
    s'.slot sl = s.slot sl ∨
    (∃ p rest, s.input = p :: rest ∧ p.rst = true ∧ s'.slot sl = Slot.construct (s.slot sl).config) ∨
    (∃ p rest r, s.input = p :: rest ∧ p.accepts = true ∧ trains s.units sl p.command = true ∧
      s'.rsp = some ⟨r, .ok⟩ ∧ s'.slot sl = (s.slot sl).train p.addr (cmdT p.cmd)) := by
  cases hin : s.input with
  | nil =>
    obtain rfl : s.silent = s' := by simpa [step_nothing hin] using h
    exact .inl (State.silent_slot s sl)
  | cons p rest =>
    by_cases hrst : p.rst = true
    · rw [step_reset hin hrst] at h
      cases h
      exact .inr (.inl ⟨p, rest, rfl, hrst, by simp⟩)
    by_cases hacc : p.accepts = true
    · obtain ⟨t, ⟨b, e⟩, ht, -, hr, hslot⟩ := step_of_accepts hin hacc
      obtain rfl : t = s' := by simpa [ht] using h
      obtain ⟨hsl, hok⟩ := hslot sl
      rw [Slot.after] at hsl
      split at hsl
      · next htr => exact .inr (.inr ⟨p, rest, b, rfl, hacc, htr, hok htr ▸ hr, hsl⟩)
      · exact .inl hsl
    · rw [step_not_accepted hin (by simpa using hrst) (by simpa using hacc)] at h
      cases h
      exact .inl (by simp)

/-! ## The invariants and frames of the step -/

/-- Settles O56: slot by slot, a construction value and a trained unit are in range and canonical. -/
theorem stepKeepsWellFormed : Obligations.StepKeepsWellFormed := by
  intro s s' hwf h
  rw [State.wf_iff] at hwf ⊢
  intro sl
  rcases step_slot_cases h sl with hkeep | ⟨p, rest, -, -, hreset⟩ | ⟨p, rest, r, -, -, -, -, htrain⟩
  · exact hkeep ▸ hwf sl
  · exact hreset ▸ Slot.construct_wf (Slot.config_ok (hwf sl))
  · exact htrain ▸ Slot.train_wf p.addr (cmdT p.cmd) (hwf sl)

/-- Settles O26: of the ways a command can end, only the three trainings write a slot, and each is an UPDATE of a unit. -/
theorem nonTrainingCommandsChangeTheResponseOnly : Obligations.NonTrainingCommandsChangeTheResponseOnly := by
  intro i s s' h hbim hgsh hhyb
  rcases exec_next_cases h with ⟨b, e, rfl⟩ | ⟨sl, t, a, u, hi, -⟩ | ⟨sl, t, a, g, hi, -⟩ | ⟨sl, t, a, y, hi, -⟩
  · rfl
  · exact absurd hi (hbim sl t a)
  · exact absurd hi (hgsh sl t a)
  · exact absurd hi (hhyb sl t a)

/-- Settles O27: a slot that changed was constructed at `rst`, or trained by an UPDATE whose byte's fields `trains_iff`
gives. -/
theorem onlySuccessfulUpdatesChangeState : Obligations.OnlySuccessfulUpdatesChangeState := by
  intro s s' sl h hne
  rcases step_slot_cases h sl with hkeep | ⟨p, rest, hin, hrst, -⟩ | ⟨p, rest, r, hin, hacc, htr, hrsp, -⟩
  · exact absurd hkeep hne
  · exact ⟨p, rest, hin, .inl hrst⟩
  · obtain ⟨hop, hr, hunit⟩ := cmd_toNat_of_trains htr
    obtain ⟨-, -, -, hkind⟩ := trains_iff.mp htr
    have hnone : s.slot sl ≠ .none := by simpa [Slot.config_eq_none] using hkind
    obtain ⟨⟨hvalid, hready⟩, hrst⟩ : (p.reqValid = true ∧ p.reqReady = true) ∧ p.rst = false := by
      simpa [PortInput.accepts] using hacc
    exact ⟨p, rest, hin, .inr ⟨hrst, hvalid, hready, hop, hr, hunit, hnone, r, hrsp⟩⟩

/-- Settles O28: construction and training keep a slot's kind and parameters. -/
theorem configurationNeverChanges : Obligations.ConfigurationNeverChanges := by
  intro s s' h
  refine units_eq_of_get fun sl => ?_
  rw [State.units_get, State.units_get]
  rcases step_slot_cases h sl with hkeep | ⟨p, rest, -, -, hreset⟩ | ⟨p, rest, r, -, -, -, -, htrain⟩
  · rw [hkeep]
  · rw [hreset, Slot.construct_config]
  · rw [htrain, Slot.train_config]

/-! ## Runs of commands -/

@[simp] theorem State.offers_units (s : State) (cs : List Command) : (s.offers cs).units = s.units := rfl

@[simp] theorem State.offers_slot (s : State) (cs : List Command) (sl : SlotId) : (s.offers cs).slot sl = s.slot sl :=
  State.withInput_slot s _ sl

/-- A run's effect on a slot is the effects of its commands on that slot, one after another. -/
theorem observe_slot (sl : SlotId) (cs : List Command) {s : State} {rest : List PortInput}
    (h : s.input = cs.map PortInput.accepted ++ rest) :
    (observe cs.length s).2.slot sl = cs.foldl (Slot.after s.units sl) (s.slot sl) := by
  induction cs generalizing s with
  | nil => rfl
  | cons c cs ih =>
    obtain ⟨s', r, hstep, hin, -, hslot⟩ := step_of_accepts h (PortInput.accepted_accepts c)
    have hunits : s'.units = s.units := configurationNeverChanges s s' hstep
    have hsl : s'.slot sl = (s.slot sl).after s.units sl c := (hslot sl).1
    simp only [List.length_cons, observe, hstep, List.foldl_cons]
    rw [ih hin, hunits, hsl]

theorem runCommands_slot (s : State) (cs : List Command) (sl : SlotId) :
    (runCommands s cs).2.slot sl = cs.foldl (Slot.after s.units sl) (s.slot sl) := by
  rw [runCommands, observe_slot sl cs rfl, State.offers_units, State.offers_slot]

/-- The commands that do not train the slot drop out of the fold. -/
theorem foldl_after_filter (u : Units) (sl : SlotId) (cs : List Command) (v : Slot) :
    (cs.filter (trains u sl)).foldl (Slot.after u sl) v = cs.foldl (Slot.after u sl) v := by
  rw [List.foldl_filter]
  congr
  funext v c
  by_cases h : trains u sl c = true <;> simp [Slot.after, h]

/-- Settles O34: both runs are the same fold over the commands that train the slot. -/
theorem slotStateComesFromItsUpdates : Obligations.SlotStateComesFromItsUpdates := by
  intro s cs sl
  rw [runCommands_slot, runCommands_slot, foldl_after_filter]

/-! ## The start of the invariants -/

/-- Settles O55: slot by slot, from the construction value of each kind. -/
theorem constructionMeetsTheInvariants : Obligations.ConstructionMeetsTheInvariants := by
  refine ⟨fun c hc => ⟨State.construct_wf ?_, fun sl => ?_⟩, State.construct_wf (by decide)⟩
  · simp only [Config.ok, Bool.and_eq_true] at hc
    exact hc.2
  · rw [State.construct_slot]
    exact ⟨Slot.construct_equalHistories _, Slot.construct_selectorIsToggle _⟩

end Sys2Proof.Machine

/-! PROOFS. The counter tables (spec 20_memory.md R43; log entry 3). -/

namespace Sys2Proof.Machine

theorem Table.wfFrom_cons {n lo k : Nat} {v : Counter} {t : Table} :
    Table.wfFrom n lo ((k, v) :: t) = true ↔ lo ≤ k ∧ k < n ∧ v ≠ freshCounter ∧ Table.wfFrom n (k + 1) t = true := by
  simp [Table.wfFrom, and_assoc]

@[simp] theorem memRead_cons_same (k : Nat) (v : Counter) (t : Table) : memRead ((k, v) :: t) k = v := by
  simp [memRead]

theorem memRead_cons_other {k i : Nat} (v : Counter) (t : Table) (h : k ≠ i) : memRead ((k, v) :: t) i = memRead t i := by
  simp [memRead, h]

/-- A canonical list names no index below its first, so an entry that does not read as the reset value is not below it. -/
theorem Table.head_le_of_memRead_ne {n lo k i : Nat} {v : Counter} {t : Table}
    (h : Table.wfFrom n lo ((k, v) :: t) = true) (hi : memRead ((k, v) :: t) i ≠ freshCounter) : k ≤ i := by
  obtain ⟨-, hk, hv, ht⟩ := Table.wfFrom_cons.mp h
  by_contra hlt
  exact hi (memRead_wfFrom_below (Table.wfFrom_cons.mpr ⟨le_refl k, hk, hv, ht⟩) (by omega))

/-- Canonical lists with equal entries are equal: their first indices are the first entry that is not the reset value. -/
theorem Table.eq_of_memRead_eq {n lo : Nat} {t u : Table} (ht : Table.wfFrom n lo t = true)
    (hu : Table.wfFrom n lo u = true) (h : ∀ i, i < n → memRead t i = memRead u i) : t = u := by
  induction t generalizing lo u with
  | nil =>
    cases u with
    | nil => rfl
    | cons e u =>
      obtain ⟨k, v⟩ := e
      obtain ⟨-, hk, hv, -⟩ := Table.wfFrom_cons.mp hu
      exact absurd (by simpa using (h k hk).symm) hv
  | cons e t ih =>
    obtain ⟨k, v⟩ := e
    obtain ⟨-, hk, hv, ht'⟩ := Table.wfFrom_cons.mp ht
    cases u with
    | nil => exact absurd (by simpa using h k hk) hv
    | cons e u =>
      obtain ⟨k', v'⟩ := e
      obtain ⟨-, hk', hv', hu'⟩ := Table.wfFrom_cons.mp hu
      have hle : k' ≤ k := Table.head_le_of_memRead_ne hu (by rw [← h k hk]; simpa using hv)
      have hge : k ≤ k' := Table.head_le_of_memRead_ne ht (by rw [h k' hk']; simpa using hv')
      obtain rfl : k = k' := by omega
      obtain rfl : v = v' := by simpa using h k hk
      have htail : ∀ i, i < n → memRead t i = memRead u i := by
        intro i hi
        by_cases hki : k = i
        · subst hki
          rw [memRead_wfFrom_below ht' (by omega), memRead_wfFrom_below hu' (by omega)]
        · simpa [memRead_cons_other _ _ hki] using h i hi
      rw [ih ht' hu' htail]

/-- Settles O44: the two laws of a write, at the index written and at another. -/
theorem tablePrimitives : Obligations.TablePrimitives :=
  fun t i v => ⟨memRead_memWrite_same t i v, fun _ hj => memRead_memWrite_other t v hj⟩

/-- Settles O45: extensionality of canonical lists from index 0 on, and the canonical form kept by a write. -/
theorem tablesAreTheirEntries : Obligations.TablesAreTheirEntries :=
  fun _ _ _ ht hu => ⟨Table.eq_of_memRead_eq ht hu, fun _ v hi => memWrite_wf v ht hi⟩

end Sys2Proof.Machine

/-! PROOFS. Runs of commands as sequences of atomic steps (spec 20_memory.md R46, R49, R54).

An accepted command is one function of the state (`State.afterCommand`): the response is a value read off the slot the
command names (`State.responseTo`), and each slot changes by `Slot.after`. Every statement about a run follows from its
one equation, `runCommands_cons`. -/

namespace Sys2Proof.Machine

/-! ## The response -/

/-- The response of a PREDICT or an UPDATE to a slot in this state: the prediction of its unit (R90, R100, R111, R132), or
`ERR_UNIT` (R142). -/
def Slot.response (a : Addr) : Slot → Response
  | .none => ⟨false, .errUnit⟩
  | .bim b => ⟨bimPredict b a, .ok⟩
  | .gsh g => ⟨gshPredict g a, .ok⟩
  | .hyb y => ⟨hybPredict y a, .ok⟩

theorem Slot.response_err {v : Slot} (a : Addr) (h : v ≠ .none) : (v.response a).err = .ok := by
  cases v with
  | none => exact absurd rfl h
  | bim b | gsh g | hyb y => rfl

/-- The response to an accepted command, by the decoder's lines (R64). -/
def State.responseTo (s : State) (c : Command) : Response :=
  if cmdOp c.cmd = 0b00#2 then ⟨false, .ok⟩
  else if cmdOp c.cmd = 0b11#2 ∨ cmdRsvd c.cmd ≠ 0b000#3 then ⟨false, .errOp⟩
  else (s.slot (slotOfBits (cmdUnit c.cmd))).response c.addr

/-- The response is determined by the slot that the command names. -/
theorem State.responseTo_congr {s t : State} {c : Command}
    (h : s.slot (slotOfBits (cmdUnit c.cmd)) = t.slot (slotOfBits (cmdUnit c.cmd))) : s.responseTo c = t.responseTo c := by
  simp only [State.responseTo, h]

theorem rsp_of_exec_decodePredict {s s' : State} {c : Command} (h : exec (decodePredict s.units c) s = .next s') :
    s'.rsp = some ((s.slot (slotOfBits (cmdUnit c.cmd))).response c.addr) := by
  rw [decodePredict] at h
  cases hs : s.slot (slotOfBits (cmdUnit c.cmd)) <;>
    · simp [hs, Slot.config, exec, execPredictNone_eq, execPredictBim_eq, execPredictGsh_eq, execPredictHyb_eq] at h
      simp [← h, Slot.response]

theorem rsp_of_exec_decodeUpdate {s s' : State} {c : Command} (h : exec (decodeUpdate s.units c) s = .next s') :
    s'.rsp = some ((s.slot (slotOfBits (cmdUnit c.cmd))).response c.addr) := by
  rw [decodeUpdate] at h
  cases hs : s.slot (slotOfBits (cmdUnit c.cmd)) <;>
    · simp [hs, Slot.config, exec, execUpdateNone_eq, execUpdateBim_eq, execUpdateGsh_eq, execUpdateHyb_eq] at h
      simp [← h, Slot.response]

theorem rsp_of_exec_decode {s s' : State} {c : Command} (h : exec (decode s.units c) s = .next s') :
    s'.rsp = some (s.responseTo c) := by
  rcases cmd_cases c.cmd with hop | hop | ⟨hop, hr⟩ | ⟨hop, hr⟩ | ⟨hop, hr⟩ | ⟨hop, hr⟩
  · rw [decode_nop hop] at h
    cases h
    simp [State.responseTo, hop]
  · rw [decode_op11 hop] at h
    cases h
    simp [State.responseTo, hop]
  · rw [decode_predict hop hr] at h
    simpa [State.responseTo, hop, hr] using rsp_of_exec_decodePredict h
  · rw [decode_rsvdPredict hop hr, decodeRsvdPredict] at h
    split_ifs at h <;> cases h <;> simp [State.responseTo, hop, hr]
  · rw [decode_update hop hr] at h
    simpa [State.responseTo, hop, hr] using rsp_of_exec_decodeUpdate h
  · rw [decode_rsvdUpdate hop hr, decodeRsvdUpdate] at h
    split_ifs at h <;> cases h <;> simp [State.responseTo, hop, hr]

/-! ## One command, and a run of them -/

/-- The state after an accepted command, its transfer taken. -/
def State.afterCommand (s : State) (c : Command) : State :=
  { u0 := s.u0.after s.units .u0 c, u1 := s.u1.after s.units .u1 c
    u2 := s.u2.after s.units .u2 c, u3 := s.u3.after s.units .u3 c
    input := s.input, rsp := some (s.responseTo c) }

@[simp] theorem State.afterCommand_slot (s : State) (c : Command) (sl : SlotId) :
    (s.afterCommand c).slot sl = (s.slot sl).after s.units sl c := by
  cases sl <;> rfl

@[simp] theorem State.afterCommand_input (s : State) (c : Command) : (s.afterCommand c).input = s.input := rfl
@[simp] theorem State.afterCommand_rsp (s : State) (c : Command) : (s.afterCommand c).rsp = some (s.responseTo c) := rfl

@[simp] theorem State.withInput_responseTo (s : State) (l : List PortInput) (c : Command) :
    State.responseTo { s with input := l } c = s.responseTo c :=
  State.responseTo_congr (State.withInput_slot s l _)

theorem step_eq_afterCommand {s : State} {p : PortInput} {rest : List PortInput} (h : s.input = p :: rest)
    (ha : p.accepts = true) : step s = .next (State.afterCommand { s with input := rest } p.command) := by
  obtain ⟨s', r, hstep, hin, -, hslot⟩ := step_of_accepts h ha
  have hrsp : s'.rsp = some (State.responseTo { s with input := rest } p.command) :=
    rsp_of_exec_decode ((step_accepted h ha).symm.trans hstep)
  have hslots : ∀ sl, s'.slot sl = (State.afterCommand { s with input := rest } p.command).slot sl := fun sl => by
    simp [(hslot sl).1]
  rw [hstep, State.ext_slots hslots hin hrsp]

@[simp] theorem runCommands_nil (s : State) : runCommands s [] = ([], s) := rfl

/-- A run is its first command and then the run of the others from the state that it leaves. -/
theorem runCommands_cons (s : State) (c : Command) (cs : List Command) :
    runCommands s (c :: cs) =
      (s.responseTo c :: (runCommands (s.afterCommand c) cs).1, (runCommands (s.afterCommand c) cs).2) := by
  have hstep : step (s.offers (c :: cs)) = .next ((s.afterCommand c).offers cs) :=
    step_eq_afterCommand (rest := (s.offers cs).input) rfl (PortInput.accepted_accepts c)
  simp only [runCommands, List.length_cons, observe, hstep]
  rfl

theorem runCommands_responses_length (s : State) (cs : List Command) : (runCommands s cs).1.length = cs.length := by
  induction cs generalizing s with
  | nil => rfl
  | cons c cs ih => simp [runCommands_cons, ih]

theorem runCommands_input (s : State) (cs : List Command) : (runCommands s cs).2.input = s.input := by
  induction cs generalizing s with
  | nil => rfl
  | cons c cs ih => simp [runCommands_cons, ih]

theorem runCommands_append (s : State) (cs ds : List Command) :
    runCommands s (cs ++ ds) =
      ((runCommands s cs).1 ++ (runCommands (runCommands s cs).2 ds).1, (runCommands (runCommands s cs).2 ds).2) := by
  induction cs generalizing s with
  | nil => rfl
  | cons c cs ih => simp [runCommands_cons, ih]

/-- Settles O32: each part by induction on the first list, with `runCommands_cons`. -/
theorem runIsSerial : Obligations.RunIsSerial :=
  fun s cs ds => ⟨runCommands_responses_length s cs, runCommands_input s cs, runCommands_append s cs ds⟩

/-! ## Repeated PREDICTs (R46) -/

theorem Slot.after_of_not_trains {u : Units} {sl : SlotId} {c : Command} (v : Slot) (h : trains u sl c = false) :
    v.after u sl c = v := by
  simp [Slot.after, h]

theorem trains_predict {u : Units} {c : Command} (sl : SlotId) (h : cmdOp c.cmd = 0b01#2) : trains u sl c = false :=
  trains_eq_false_of_not_update sl fun ⟨hop, _⟩ => absurd (h.symm.trans hop) (by decide)

/-- Each PREDICT leaves the slots that the next one's response is read off. -/
theorem runCommands_replicate_predict (s : State) {x : Command} (hop : cmdOp x.cmd = 0b01#2) (k : Nat) :
    (runCommands s (List.replicate k x)).1 = List.replicate k (s.responseTo x) ∧
      ∀ sl, (runCommands s (List.replicate k x)).2.slot sl = s.slot sl := by
  induction k generalizing s with
  | zero => exact ⟨rfl, fun _ => rfl⟩
  | succ k ih =>
    have hslot : ∀ sl, (s.afterCommand x).slot sl = s.slot sl := fun sl => by
      rw [State.afterCommand_slot, Slot.after_of_not_trains _ (trains_predict sl hop)]
    obtain ⟨hresp, hkeep⟩ := ih (s.afterCommand x)
    rw [State.responseTo_congr (hslot _)] at hresp
    simp [List.replicate_succ, runCommands_cons, hresp, hkeep, hslot]

/-- Settles O31: the responses are all that of the first PREDICT, an error's included. -/
theorem predictIsIdempotent : Obligations.PredictIsIdempotent := by
  intro s x k hx
  have hop : cmdOp x.cmd = 0b01#2 := BitVec.eq_of_toNat_eq ((cmdOp_toNat x.cmd).trans hx)
  obtain ⟨hresp, hkeep⟩ := runCommands_replicate_predict s hop k
  exact ⟨s.responseTo x, _, Prod.ext hresp rfl, hkeep⟩

/-! ## Commands to different slots (R54) -/

/-- The fields of a PREDICT or UPDATE that is addressed to slot `sl` and decodes without error (R64). -/
theorem fields_of_target {u : Units} {c : Command} {sl : SlotId} {k : Kind}
    (h : (decode u c).target = some (sl, some k)) :
    (cmdOp c.cmd = 0b01#2 ∨ cmdOp c.cmd = 0b10#2) ∧ cmdRsvd c.cmd = 0b000#3 ∧ slotOfBits (cmdUnit c.cmd) = sl ∧
      u.get sl ≠ .none := by
  rcases cmd_cases c.cmd with hop | hop | ⟨hop, hr⟩ | ⟨hop, hr⟩ | ⟨hop, hr⟩ | ⟨hop, hr⟩
  · simp [decode_nop hop, Instr.target] at h
  · simp [decode_op11 hop, Instr.target] at h
  · refine ⟨.inl hop, hr, ?_⟩
    rw [decode_predict hop hr, decodePredict] at h
    cases hu : u.get (slotOfBits (cmdUnit c.cmd)) <;> simp [hu, Instr.target] at h <;> simp [← h.1, hu]
  · rw [decode_rsvdPredict hop hr, decodeRsvdPredict] at h
    split_ifs at h <;> simp [Instr.target] at h
  · refine ⟨.inr hop, hr, ?_⟩
    rw [decode_update hop hr, decodeUpdate] at h
    cases hu : u.get (slotOfBits (cmdUnit c.cmd)) <;> simp [hu, Instr.target] at h <;> simp [← h.1, hu]
  · rw [decode_rsvdUpdate hop hr, decodeRsvdUpdate] at h
    split_ifs at h <;> simp [Instr.target] at h

section
variable {s : State} {c : Command} {sl : SlotId} {k : Kind} (h : (decode s.units c).target = some (sl, some k))
include h

/-- A command that decodes to slot `sl` changes no other slot. -/
theorem Slot.after_of_target_ne {sl' : SlotId} (v : Slot) (hne : sl' ≠ sl) : v.after s.units sl' c = v := by
  obtain ⟨-, -, hsl, -⟩ := fields_of_target h
  refine Slot.after_of_not_trains v (Bool.eq_false_iff.mpr fun ht => hne ?_)
  obtain ⟨-, -, hsl', -⟩ := trains_iff.mp ht
  exact hsl'.symm.trans hsl

/-- A command that decodes to slot `sl` without error responds without error. -/
theorem responseTo_err_of_target : (s.responseTo c).err = .ok := by
  obtain ⟨hop, hr, rfl, hn⟩ := fields_of_target h
  have hn' : s.slot (slotOfBits (cmdUnit c.cmd)) ≠ .none := by simpa [Slot.config_eq_none] using hn
  rcases hop with hop | hop <;> simpa [State.responseTo, hop, hr] using Slot.response_err c.addr hn'

/-- Its response is the same after a command to another slot. -/
theorem responseTo_afterCommand_of_target_ne {c' : Command} {sl' : SlotId} {k' : Kind}
    (h' : (decode s.units c').target = some (sl', some k')) (hne : sl ≠ sl') :
    (s.afterCommand c').responseTo c = s.responseTo c := by
  obtain ⟨-, -, hsl, -⟩ := fields_of_target h
  refine State.responseTo_congr ?_
  rw [hsl, State.afterCommand_slot, Slot.after_of_target_ne h' _ hne]

end

/-- Settles O33: of two commands to different slots neither changes the slot that the other reads and trains; for one slot,
two outcomes shift into a history in either order. -/
theorem commandsToDifferentSlotsCommute : Obligations.CommandsToDifferentSlotsCommute := by
  constructor
  · intro s c₁ c₂ sl₁ sl₂ k₁ k₂ h₁ h₂ hne
    refine ⟨s.responseTo c₁, s.responseTo c₂, (runCommands s [c₁, c₂]).2, (runCommands s [c₂, c₁]).2, ?_, ?_,
      responseTo_err_of_target h₁, responseTo_err_of_target h₂, fun sl => ?_⟩
    · simp [runCommands_cons, responseTo_afterCommand_of_target_ne h₂ h₁ hne.symm]
    · simp [runCommands_cons, responseTo_afterCommand_of_target_ne h₁ h₂ hne]
    · simp only [runCommands_slot, List.foldl_cons, List.foldl_nil]
      by_cases hsl : sl = sl₁
      · have hsl₂ : sl ≠ sl₂ := hsl ▸ hne
        rw [Slot.after_of_target_ne h₂ _ hsl₂, Slot.after_of_target_ne h₂ _ hsl₂]
      · rw [Slot.after_of_target_ne h₁ _ hsl, Slot.after_of_target_ne h₁ _ hsl]
  · exact ⟨State.reset, ⟨0x16#8, 0⟩, ⟨0x06#8, 0⟩, .u1, .gsh, by decide, by decide, by decide⟩

end Sys2Proof.Machine

/-! PROOFS. The decoder and the encoder are inverse (spec 30_encoding.md R57, R64, R67 to R69).

A PREDICT or an UPDATE is one command whose mnemonic's suffix is the kind of its slot (`Instr.ofPredict`,
`Instr.ofUpdate`), so the four kinds share one proof. -/

namespace Sys2Proof

/-! ## The bytes of the encoder, field by field -/

@[simp] theorem cmdOp_ign_append : ∀ (i : BitVec 6) (o : BitVec 2), cmdOp (i ++ o) = o := by decide

@[simp] theorem cmdIgn_ign_append : ∀ (i : BitVec 6) (o : BitVec 2), cmdIgn (i ++ o) = i := by decide

theorem ign_append_fields : ∀ c : Byte, cmdIgn c ++ cmdOp c = c := by decide

theorem packMid_fields : ∀ c : Byte, packMid (cmdRsvd c) (cmdMid c) (cmdOp c) = c := by decide

theorem getLsbD_five_packMid : ∀ (r m : BitVec 3) (o : BitVec 2), (packMid r m o).getLsbD 5 = r.getLsbD 0 := by decide

theorem getLsbD_six_packMid : ∀ (r m : BitVec 3) (o : BitVec 2), (packMid r m o).getLsbD 6 = r.getLsbD 1 := by decide

theorem getLsbD_seven_packMid : ∀ (r m : BitVec 3) (o : BitVec 2), (packMid r m o).getLsbD 7 = r.getLsbD 2 := by decide

theorem extractLsb'_six_two_packMid :
    ∀ (r m : BitVec 3) (o : BitVec 2), (packMid r m o).extractLsb' 6 2 = r.extractLsb' 1 2 := by decide

/-! ## The reserved bits by the lowest that is set (R67, log entry 9) -/

theorem cmdRsvd_of_bit_five : ∀ c : Byte, c.getLsbD 5 = true → c.extractLsb' 6 2 ++ 0b1#1 = cmdRsvd c := by decide

theorem cmdRsvd_of_bit_six : ∀ c : Byte, c.getLsbD 5 = false → c.getLsbD 6 = true →
    BitVec.ofBool (c.getLsbD 7) ++ 0b10#2 = cmdRsvd c := by decide

theorem cmdRsvd_of_bit_seven : ∀ c : Byte, c.getLsbD 5 = false → c.getLsbD 6 = false → cmdRsvd c ≠ 0b000#3 →
    0b100#3 = cmdRsvd c := by decide

theorem rsvd_with_bit_five : ∀ hi : BitVec 2,
    (hi ++ 0b1#1).getLsbD 0 = true ∧ (hi ++ 0b1#1).extractLsb' 1 2 = hi ∧ hi ++ 0b1#1 ≠ 0b000#3 := by decide

theorem rsvd_with_bit_six : ∀ b7 : Bool,
    (BitVec.ofBool b7 ++ 0b10#2).getLsbD 0 = false ∧ (BitVec.ofBool b7 ++ 0b10#2).getLsbD 1 = true ∧
    (BitVec.ofBool b7 ++ 0b10#2).getLsbD 2 = b7 ∧ BitVec.ofBool b7 ++ 0b10#2 ≠ 0b000#3 := by decide

/-! ## PREDICT and UPDATE of a kind -/

/-- The PREDICT whose mnemonic's suffix is `k`, `none` for a slot configured `NONE` (R67, R70). -/
def Instr.ofPredict (k : Option Kind) (sl : SlotId) (x : Bool) (a : Addr) : Instr :=
  match k with
  | none => .predictNone sl x a
  | some .bim => .predictBim sl x a
  | some .gsh => .predictGsh sl x a
  | some .hyb => .predictHyb sl x a

/-- The UPDATE whose mnemonic's suffix is `k`, `none` for a slot configured `NONE` (R67, R70). -/
def Instr.ofUpdate (k : Option Kind) (sl : SlotId) (t : Bool) (a : Addr) : Instr :=
  match k with
  | none => .updateNone sl t a
  | some .bim => .updateBim sl t a
  | some .gsh => .updateGsh sl t a
  | some .hyb => .updateHyb sl t a

theorem decodePredict_eq (u : Units) (c : Command) :
    decodePredict u c =
      .ofPredict (u.get (slotOfBits (cmdUnit c.cmd))).kind (slotOfBits (cmdUnit c.cmd)) (cmdT c.cmd) c.addr := by
  rw [decodePredict]
  cases u.get (slotOfBits (cmdUnit c.cmd)) <;> rfl

theorem decodeUpdate_eq (u : Units) (c : Command) :
    decodeUpdate u c =
      .ofUpdate (u.get (slotOfBits (cmdUnit c.cmd))).kind (slotOfBits (cmdUnit c.cmd)) (cmdT c.cmd) c.addr := by
  rw [decodeUpdate]
  cases u.get (slotOfBits (cmdUnit c.cmd)) <;> rfl

@[simp] theorem encode_ofPredict (k : Option Kind) (sl : SlotId) (x : Bool) (a : Addr) :
    encode (.ofPredict k sl x a) = ⟨packCmd 0b000#3 x (slotBits sl) 0b01#2, a⟩ := by
  rcases k with _ | _ | _ | _ <;> rfl

@[simp] theorem encode_ofUpdate (k : Option Kind) (sl : SlotId) (t : Bool) (a : Addr) :
    encode (.ofUpdate k sl t a) = ⟨packCmd 0b000#3 t (slotBits sl) 0b10#2, a⟩ := by
  rcases k with _ | _ | _ | _ <;> rfl

@[simp] theorem target_ofPredict (k : Option Kind) (sl : SlotId) (x : Bool) (a : Addr) :
    (Instr.ofPredict k sl x a).target = some (sl, k) := by
  rcases k with _ | _ | _ | _ <;> rfl

@[simp] theorem target_ofUpdate (k : Option Kind) (sl : SlotId) (t : Bool) (a : Addr) :
    (Instr.ofUpdate k sl t a).target = some (sl, k) := by
  rcases k with _ | _ | _ | _ <;> rfl

/-! ## Well-formed commands (R62, R70) -/

theorem addrFits_iff {c : Config} {a : Addr} : addrFits c a = true ↔ a < 2 ^ c.addrW := decide_eq_true_iff

theorem kindFits_iff {u : Units} {i : Instr} :
    kindFits u i = true ↔ ∀ sl k, i.target = some (sl, k) → (u.get sl).kind = k := by
  rcases h : i.target with _ | ⟨sl, k⟩
  · simp [kindFits, h]
  · simp only [kindFits, h, decide_eq_true_eq, Option.some.injEq, Prod.mk.injEq]
    exact ⟨fun hk _ _ ⟨hsl, hk'⟩ => hsl ▸ hk' ▸ hk, fun hk => hk sl k ⟨rfl, rfl⟩⟩

theorem Instr.wellFormed_iff {c : Config} {i : Instr} :
    i.wellFormed c = true ↔ i.addr < 2 ^ c.addrW ∧ ∀ sl k, i.target = some (sl, k) → (c.units.get sl).kind = k := by
  rw [Instr.wellFormed, Bool.and_eq_true, addrFits_iff, kindFits_iff]

@[simp] theorem encode_addr (i : Instr) : (encode i).addr = i.addr := by
  cases i <;> rfl

/-! ## Decoding what was encoded -/

theorem decode_predict_byte {u : Units} {sl : SlotId} {k : Option Kind} (x : Bool) (a : Addr) (hk : (u.get sl).kind = k) :
    decode u ⟨packCmd 0b000#3 x (slotBits sl) 0b01#2, a⟩ = .ofPredict k sl x a := by
  rw [decode_predict (by simp) (by simp), decodePredict_eq]
  simp [hk]

theorem decode_update_byte {u : Units} {sl : SlotId} {k : Option Kind} (t : Bool) (a : Addr) (hk : (u.get sl).kind = k) :
    decode u ⟨packCmd 0b000#3 t (slotBits sl) 0b10#2, a⟩ = .ofUpdate k sl t a := by
  rw [decode_update (by simp) (by simp), decodeUpdate_eq]
  simp [hk]

theorem decode_rsvdPredict_byte (u : Units) {r : BitVec 3} (mid : BitVec 3) (a : Addr) (hr : r ≠ 0b000#3) :
    decode u ⟨packMid r mid 0b01#2, a⟩ =
      if r.getLsbD 0 then .errRsvdPredictB5 (r.extractLsb' 1 2) mid a
      else if r.getLsbD 1 then .errRsvdPredictB6 (r.getLsbD 2) mid a
      else .errRsvdPredictB7 mid a := by
  rw [decode_rsvdPredict (by simp) (by simpa using hr), decodeRsvdPredict]
  simp only [getLsbD_five_packMid, getLsbD_six_packMid, getLsbD_seven_packMid, extractLsb'_six_two_packMid, cmdMid_packMid]

theorem decode_rsvdUpdate_byte (u : Units) {r : BitVec 3} (mid : BitVec 3) (a : Addr) (hr : r ≠ 0b000#3) :
    decode u ⟨packMid r mid 0b10#2, a⟩ =
      if r.getLsbD 0 then .errRsvdUpdateB5 (r.extractLsb' 1 2) mid a
      else if r.getLsbD 1 then .errRsvdUpdateB6 (r.getLsbD 2) mid a
      else .errRsvdUpdateB7 mid a := by
  rw [decode_rsvdUpdate (by simp) (by simpa using hr), decodeRsvdUpdate]
  simp only [getLsbD_five_packMid, getLsbD_six_packMid, getLsbD_seven_packMid, extractLsb'_six_two_packMid, cmdMid_packMid]

/-- Settles O1: of its well-formedness a command needs only that its kind is its slot's, since the byte holds every other
field. -/
theorem decodeOfEncodeIsTheCommand : Obligations.DecodeOfEncodeIsTheCommand := by
  intro c i hwf
  obtain ⟨-, hkind⟩ := Instr.wellFormed_iff.mp hwf
  cases i with
  | nop ign a => simp [encode, decode_nop]
  | errOp11 ign a => simp [encode, decode_op11]
  | predictBim sl x a | predictGsh sl x a | predictHyb sl x a | predictNone sl x a =>
    exact decode_predict_byte x a (hkind sl _ rfl)
  | updateBim sl t a | updateGsh sl t a | updateHyb sl t a | updateNone sl t a =>
    exact decode_update_byte t a (hkind sl _ rfl)
  | errRsvdPredictB5 hi mid a =>
    obtain ⟨hbit, hhi, hr⟩ := rsvd_with_bit_five hi
    rw [encode, decode_rsvdPredict_byte _ mid a hr, if_pos hbit, hhi]
  | errRsvdUpdateB5 hi mid a =>
    obtain ⟨hbit, hhi, hr⟩ := rsvd_with_bit_five hi
    rw [encode, decode_rsvdUpdate_byte _ mid a hr, if_pos hbit, hhi]
  | errRsvdPredictB6 b7 mid a =>
    obtain ⟨h5, h6, h7, hr⟩ := rsvd_with_bit_six b7
    rw [encode, decode_rsvdPredict_byte _ mid a hr, if_neg (ne_true_of_eq_false h5), if_pos h6, h7]
  | errRsvdUpdateB6 b7 mid a =>
    obtain ⟨h5, h6, h7, hr⟩ := rsvd_with_bit_six b7
    rw [encode, decode_rsvdUpdate_byte _ mid a hr, if_neg (ne_true_of_eq_false h5), if_pos h6, h7]
  | errRsvdPredictB7 mid a => exact decode_rsvdPredict_byte _ mid a (by decide)
  | errRsvdUpdateB7 mid a => exact decode_rsvdUpdate_byte _ mid a (by decide)

/-! ## Encoding what was decoded -/

theorem encode_decodeRsvdPredict {x : Command} (hop : cmdOp x.cmd = 0b01#2) (hr : cmdRsvd x.cmd ≠ 0b000#3) :
    encode (decodeRsvdPredict x) = x := by
  have hbyte : packMid (cmdRsvd x.cmd) (cmdMid x.cmd) 0b01#2 = x.cmd := hop ▸ packMid_fields x.cmd
  rw [decodeRsvdPredict]
  split_ifs with h5 h6
  · rw [encode, cmdRsvd_of_bit_five _ h5, hbyte]
  · rw [encode, cmdRsvd_of_bit_six _ (by simpa using h5) h6, hbyte]
  · rw [encode, cmdRsvd_of_bit_seven _ (by simpa using h5) (by simpa using h6) hr, hbyte]

theorem encode_decodeRsvdUpdate {x : Command} (hop : cmdOp x.cmd = 0b10#2) (hr : cmdRsvd x.cmd ≠ 0b000#3) :
    encode (decodeRsvdUpdate x) = x := by
  have hbyte : packMid (cmdRsvd x.cmd) (cmdMid x.cmd) 0b10#2 = x.cmd := hop ▸ packMid_fields x.cmd
  rw [decodeRsvdUpdate]
  split_ifs with h5 h6
  · rw [encode, cmdRsvd_of_bit_five _ h5, hbyte]
  · rw [encode, cmdRsvd_of_bit_six _ (by simpa using h5) h6, hbyte]
  · rw [encode, cmdRsvd_of_bit_seven _ (by simpa using h5) (by simpa using h6) hr, hbyte]

/-- No bit of the byte or of the address is lost in decoding (R64, R68). -/
theorem encode_decode (u : Units) (x : Command) : encode (decode u x) = x := by
  rcases cmd_cases x.cmd with hop | hop | ⟨hop, hr⟩ | ⟨hop, hr⟩ | ⟨hop, hr⟩ | ⟨hop, hr⟩
  · rw [decode_nop hop, encode, ← hop, ign_append_fields]
  · rw [decode_op11 hop, encode, ← hop, ign_append_fields]
  · rw [decode_predict hop hr, decodePredict_eq, encode_ofPredict, slotBits_slotOfBits, ← hop, ← hr, packCmd_fields]
  · rw [decode_rsvdPredict hop hr, encode_decodeRsvdPredict hop hr]
  · rw [decode_update hop hr, decodeUpdate_eq, encode_ofUpdate, slotBits_slotOfBits, ← hop, ← hr, packCmd_fields]
  · rw [decode_rsvdUpdate hop hr, encode_decodeRsvdUpdate hop hr]

theorem decode_addr (u : Units) (x : Command) : (decode u x).addr = x.addr := by
  rw [← encode_addr, encode_decode]

/-- The decoder names the kind that is configured in the slot (R59). -/
theorem kind_of_target_decode {u : Units} {x : Command} {sl : SlotId} {k : Option Kind}
    (h : (decode u x).target = some (sl, k)) : (u.get sl).kind = k := by
  rcases cmd_cases x.cmd with hop | hop | ⟨hop, hr⟩ | ⟨hop, hr⟩ | ⟨hop, hr⟩ | ⟨hop, hr⟩
  · simp [decode_nop hop, Instr.target] at h
  · simp [decode_op11 hop, Instr.target] at h
  · rw [decode_predict hop hr, decodePredict_eq, target_ofPredict] at h
    cases h
    rfl
  · rw [decode_rsvdPredict hop hr, decodeRsvdPredict] at h
    split_ifs at h <;> simp [Instr.target] at h
  · rw [decode_update hop hr, decodeUpdate_eq, target_ofUpdate] at h
    cases h
    rfl
  · rw [decode_rsvdUpdate hop hr, decodeRsvdUpdate] at h
    split_ifs at h <;> simp [Instr.target] at h

/-- Settles O2: `encode_decode` for the transfer; the address is the one on the bus and the kind is read off the slot. -/
theorem encodeOfDecodeIsTheTransfer : Obligations.EncodeOfDecodeIsTheTransfer := by
  intro c x ha
  refine ⟨encode_decode c.units x, Instr.wellFormed_iff.mpr ⟨?_, fun sl k h => kind_of_target_decode h⟩⟩
  rw [decode_addr]
  exact addrFits_iff.mp ha

end Sys2Proof

/-! PROOFS. What a decoded byte does in a step (spec 30_encoding.md R55, R64, R68, R72; log entries 6, 10, 12). -/

namespace Sys2Proof.Machine

/-! ## The fields given as arithmetic on the byte -/

theorem cmdOp_eq_iff {c : Byte} {o : BitVec 2} : cmdOp c = o ↔ c.toNat % 4 = o.toNat := by
  rw [← cmdOp_toNat, BitVec.toNat_inj]

theorem cmdRsvd_eq_iff {c : Byte} {r : BitVec 3} : cmdRsvd c = r ↔ c.toNat / 32 = r.toNat := by
  rw [← cmdRsvd_toNat, BitVec.toNat_inj]

theorem cmdUnit_eq_iff {c c' : Byte} : cmdUnit c = cmdUnit c' ↔ c.toNat / 4 % 4 = c'.toNat / 4 % 4 := by
  rw [← cmdUnit_toNat, ← cmdUnit_toNat, BitVec.toNat_inj]

/-! ## The decoder's lines and their outcomes (R64) -/

/-- The lines that end with `ERR_OP`, whatever the configuration. -/
theorem exec_decode_malformed (u : Units) {x : Command} (h0 : cmdOp x.cmd ≠ 0b00#2)
    (h : cmdOp x.cmd = 0b11#2 ∨ cmdRsvd x.cmd ≠ 0b000#3) (s : State) :
    exec (decode u x) s = .next (s.respond false .errOp) := by
  rcases cmd_cases x.cmd with hop | hop | ⟨hop, hr⟩ | ⟨hop, hr⟩ | ⟨hop, hr⟩ | ⟨hop, hr⟩
  · exact absurd hop h0
  · rw [decode_op11 hop]
    rfl
  · simp [hop, hr] at h
  · rw [decode_rsvdPredict hop hr, decodeRsvdPredict]
    split_ifs <;> rfl
  · simp [hop, hr] at h
  · rw [decode_rsvdUpdate hop hr, decodeRsvdUpdate]
    split_ifs <;> rfl

section
variable {u : Units} {sl : SlotId} {x : Command} (hsl : slotOfBits (cmdUnit x.cmd) = sl)
include hsl

theorem decode_eq_ofPredict (hop : cmdOp x.cmd = 0b01#2) (hr : cmdRsvd x.cmd = 0b000#3) :
    decode u x = .ofPredict (u.get sl).kind sl (cmdT x.cmd) x.addr := by
  rw [decode_predict hop hr, decodePredict_eq, hsl]

theorem decode_eq_ofUpdate (hop : cmdOp x.cmd = 0b10#2) (hr : cmdRsvd x.cmd = 0b000#3) :
    decode u x = .ofUpdate (u.get sl).kind sl (cmdT x.cmd) x.addr := by
  rw [decode_update hop hr, decodeUpdate_eq, hsl]

/-- The line that ends with `ERR_UNIT`. -/
theorem exec_decode_unconfigured (hop : cmdOp x.cmd = 0b01#2 ∨ cmdOp x.cmd = 0b10#2) (hr : cmdRsvd x.cmd = 0b000#3)
    (hu : u.get sl = .none) {s : State} (hs : s.slot sl = .none) :
    exec (decode u x) s = .next (s.respond false .errUnit) := by
  rcases hop with hop | hop
  · rw [decode_eq_ofPredict hsl hop hr, hu]
    exact execPredictNone_eq (cmdT x.cmd) x.addr hs
  · rw [decode_eq_ofUpdate hsl hop hr, hu]
    exact execUpdateNone_eq (cmdT x.cmd) x.addr hs

end

/-- Settles O3: the lines of `decode`, with each field read as its arithmetic. -/
theorem decodeIsTheProcedureOfTheSpec : Obligations.DecodeIsTheProcedureOfTheSpec := by
  intro u sl x hunit
  have hsl : slotOfBits (cmdUnit x.cmd) = sl := slotOfBits_of_toNat hunit
  simp only [← cmdT_eq]
  refine ⟨fun h0 => ?_, fun h0 hbad s => ?_, fun hop hr hu s hs => ?_, fun hop hr => ?_, fun hop hr => ?_⟩
  · exact ⟨cmdIgn x.cmd, decode_nop (cmdOp_eq_iff.mpr h0)⟩
  · exact exec_decode_malformed u (mt cmdOp_eq_iff.mp h0) (hbad.imp cmdOp_eq_iff.mpr (mt cmdRsvd_eq_iff.mp)) s
  · exact exec_decode_unconfigured hsl (hop.imp cmdOp_eq_iff.mpr cmdOp_eq_iff.mpr) (cmdRsvd_eq_iff.mpr hr) hu hs
  · have hx := decode_eq_ofPredict (u := u) hsl (cmdOp_eq_iff.mpr hop) (cmdRsvd_eq_iff.mpr hr)
    refine ⟨fun hu => ?_, fun n hu => ?_, fun hb hu => ?_, fun hb n hu => ?_⟩ <;> rw [hx, hu] <;> rfl
  · have hx := decode_eq_ofUpdate (u := u) hsl (cmdOp_eq_iff.mpr hop) (cmdRsvd_eq_iff.mpr hr)
    refine ⟨fun hu => ?_, fun n hu => ?_, fun hb hu => ?_, fun hb n hu => ?_⟩ <;> rw [hx, hu] <;> rfl

/-- Settles O5: one byte for each row, decoded under the default configuration. -/
theorem tableWordsDecode : Obligations.TableWordsDecode := by
  unfold Obligations.TableWordsDecode
  decide

/-! ## The step in which a command is offered (R55, R130) -/

/-- Offering a command and accepting it leaves what the ports showed next. -/
theorem step_offer (s : State) (x : Command) : step (s.offer x) = exec (decode s.units x) s :=
  step_accepted (State.offer_input s x) (PortInput.accepted_accepts x)

theorem step_offer_eq_afterCommand (s : State) (x : Command) : step (s.offer x) = .next (s.afterCommand x) :=
  step_eq_afterCommand (State.offer_input s x) (PortInput.accepted_accepts x)

/-- Settles O9: the acceptance of R55 by its three pins, and `withFetchWord` as an offer (log entry 12). -/
theorem stepRunsTheAcceptedCommand : Obligations.StepRunsTheAcceptedCommand := by
  refine ⟨fun s p rest hin hrst hvalid hready => ?_, fun s nbits w => step_offer s (tableCommand nbits w)⟩
  exact step_accepted hin (by simp [PortInput.accepts, hrst, hvalid, hready])

/-- Settles O14: the two ways in which a step accepts nothing while `rst` is 0. -/
theorem idleStepKeepsTheState : Obligations.IdleStepKeepsTheState := by
  refine ⟨fun s hin => step_nothing hin, fun s p rest hin hrst hidle => ?_⟩
  exact step_not_accepted hin hrst (by rcases hidle with h | h <;> simp [PortInput.accepts, h])

/-! ## Ignored bits (R68) -/

/-- A command that trains no slot leaves its response only. -/
theorem State.afterCommand_of_not_trains {s : State} {c : Command} (h : ∀ sl, trains s.units sl c = false) :
    s.afterCommand c = { s with rsp := some (s.responseTo c) } :=
  State.ext_slots (fun sl => by cases sl <;> simp [Slot.after_of_not_trains _ (h _)] <;> rfl) rfl rfl

theorem trains_nop {u : Units} {c : Command} (sl : SlotId) (h : cmdOp c.cmd = 0b00#2) : trains u sl c = false :=
  trains_eq_false_of_not_update sl fun ⟨hop, _⟩ => absurd (h.symm.trans hop) (by decide)

theorem State.responseTo_nop (s : State) {c : Command} (h : cmdOp c.cmd = 0b00#2) : s.responseTo c = ⟨false, .ok⟩ :=
  if_pos h

/-- Settles O6: neither command trains a slot, and the response to it reads no ignored bit. -/
theorem ignoredBitsHaveNoEffect : Obligations.IgnoredBitsHaveNoEffect := by
  intro s x x'
  constructor
  · intro hx hx'
    have hop : cmdOp x.cmd = 0b00#2 := cmdOp_eq_iff.mpr hx
    have hop' : cmdOp x'.cmd = 0b00#2 := cmdOp_eq_iff.mpr hx'
    rw [step_offer_eq_afterCommand, step_offer_eq_afterCommand,
      State.afterCommand_of_not_trains fun sl => trains_nop sl hop,
      State.afterCommand_of_not_trains fun sl => trains_nop sl hop']
    rw [State.responseTo_nop s hop, State.responseTo_nop s hop']
  · intro hx hx' haddr hunit hrsvd
    have hop : cmdOp x.cmd = 0b01#2 := cmdOp_eq_iff.mpr hx
    have hop' : cmdOp x'.cmd = 0b01#2 := cmdOp_eq_iff.mpr hx'
    have hrsvd' : cmdRsvd x.cmd = cmdRsvd x'.cmd := cmdRsvd_eq_iff.mpr (hrsvd.trans (cmdRsvd_toNat x'.cmd).symm)
    rw [step_offer_eq_afterCommand, step_offer_eq_afterCommand,
      State.afterCommand_of_not_trains fun sl => trains_predict sl hop,
      State.afterCommand_of_not_trains fun sl => trains_predict sl hop']
    simp only [State.responseTo, hop, hop', hrsvd', cmdUnit_eq_iff.mpr hunit, haddr]

/-! ## A kind that is not the slot's (R59, R70, log entry 10) -/

theorem exec_of_kind_mismatch {i : Instr} {s : State} {sl : SlotId} {k : Option Kind} (ht : i.target = some (sl, k))
    (hk : (s.slot sl).config.kind ≠ k) : exec i s = .refused .slotKindMismatch := by
  cases i with
  | nop | errOp11 | errRsvdPredictB5 | errRsvdPredictB6 | errRsvdPredictB7 | errRsvdUpdateB5 | errRsvdUpdateB6
  | errRsvdUpdateB7 => cases ht
  | predictBim | predictGsh | predictHyb | predictNone =>
    cases ht
    cases hs : s.slot sl <;>
      simp_all [exec, execPredictBim, execPredictGsh, execPredictHyb, execPredictNone, refuseKind, Slot.config,
        UnitConfig.kind]
  | updateBim | updateGsh | updateHyb | updateNone =>
    cases ht
    cases hs : s.slot sl <;>
      simp_all [exec, execUpdateBim, execUpdateGsh, execUpdateHyb, execUpdateNone, refuseKind, Slot.config,
        UnitConfig.kind]

/-- The kind of a slot's configuration is the kind of its unit. -/
theorem Slot.config_kind_cases (v : Slot) :
    (v = .none ∧ v.config.kind = Option.none) ∨ (∃ b, v = .bim b ∧ v.config.kind = some .bim) ∨
    (∃ g, v = .gsh g ∧ v.config.kind = some .gsh) ∨ (∃ y, v = .hyb y ∧ v.config.kind = some .hyb) := by
  cases v <;> simp [Slot.config, UnitConfig.kind]

/-- Settles O25: a slot that holds no unit of the mnemonic's kind has another kind. -/
theorem mnemonicOfAnotherKindIsRefused : Obligations.MnemonicOfAnotherKindIsRefused := by
  intro s sl x a
  have hcases := Slot.config_kind_cases (s.slot sl)
  refine ⟨fun h => ?_, fun h => ?_, fun h => ?_, fun h => ?_⟩
  · have hk : (s.slot sl).config.kind ≠ some .bim := by grind
    exact ⟨exec_of_kind_mismatch rfl hk, exec_of_kind_mismatch rfl hk⟩
  · have hk : (s.slot sl).config.kind ≠ some .gsh := by grind
    exact ⟨exec_of_kind_mismatch rfl hk, exec_of_kind_mismatch rfl hk⟩
  · have hk : (s.slot sl).config.kind ≠ some .hyb := by grind
    exact ⟨exec_of_kind_mismatch rfl hk, exec_of_kind_mismatch rfl hk⟩
  · have hk : (s.slot sl).config.kind ≠ none := by grind
    exact ⟨exec_of_kind_mismatch rfl hk, exec_of_kind_mismatch rfl hk⟩

end Sys2Proof.Machine

/-! PROOFS. The assembler (spec 30_encoding.md R70 to R72). -/

namespace Sys2Proof.Machine

/-! ## What each line assembles to -/

theorem suffixFits_iff {u : Units} {k : Option Kind} {sl : SlotId} :
    suffixFits u k sl = true ↔ k = none ∨ (u.get sl).kind = k := by
  cases k <;> simp [suffixFits]

section
variable {c : Config} {a : Addr} (ha : a < 2 ^ c.addrW)
include ha

theorem assemble_predict {k : Option Kind} {sl : SlotId} (hk : k = none ∨ (c.units.get sl).kind = k) :
    assemble c (.predict k sl a) = some [asmPredict sl a] := by
  simp [assemble, addrFits_iff.mpr ha, suffixFits_iff.mpr hk]

theorem assemble_update {k : Option Kind} {sl : SlotId} (t : Bool) (hk : k = none ∨ (c.units.get sl).kind = k) :
    assemble c (.update k sl a t) = some [asmUpdate sl a t] := by
  simp [assemble, addrFits_iff.mpr ha, suffixFits_iff.mpr hk]

theorem assemble_err (b : Byte) : assemble c (.err b a) = some [⟨b, a⟩] := by
  simp [assemble, addrFits_iff.mpr ha]

end

theorem packCmd_toNat : ∀ (r : BitVec 3) (t : Bool) (u o : BitVec 2),
    (packCmd r t u o).toNat = o.toNat + 4 * u.toNat + 16 * t.toNat + 32 * r.toNat := by decide

@[simp] theorem asmPredict_addr (sl : SlotId) (a : Addr) : (asmPredict sl a).addr = a := rfl
@[simp] theorem asmUpdate_addr (sl : SlotId) (a : Addr) (t : Bool) : (asmUpdate sl a t).addr = a := rfl

theorem asmPredict_cmd_toNat (sl : SlotId) (a : Addr) : (asmPredict sl a).cmd.toNat = 1 + 4 * (slotBits sl).toNat := by
  simp [asmPredict, packCmd_toNat]

theorem asmUpdate_cmd_toNat (sl : SlotId) (a : Addr) (t : Bool) :
    (asmUpdate sl a t).cmd.toNat = 2 + 4 * (slotBits sl).toNat + 16 * t.toNat := by
  simp [asmUpdate, packCmd_toNat]

/-! ## The commands of a line -/

/-- Every line but ERR gives NOP, PREDICT and UPDATE bytes only, with an address on the bus. -/
theorem mem_assemble {c : Config} {l : AsmLine} {cs : List Command} {x : Command} (hl : ∀ b a, l ≠ .err b a)
    (h : assemble c l = some cs) (hx : x ∈ cs) :
    x = ⟨0x00#8, 0⟩ ∨ ∃ sl a, a < 2 ^ c.addrW ∧ (x = asmPredict sl a ∨ ∃ t, x = asmUpdate sl a t) := by
  cases l with
  | nop =>
    cases h
    exact .inl (List.mem_singleton.mp hx)
  | err b a => exact absurd rfl (hl b a)
  | predict k sl a =>
    obtain ⟨⟨ha, -⟩, rfl⟩ : (a < 2 ^ c.addrW ∧ _) ∧ [asmPredict sl a] = cs := by
      simpa [assemble, addrFits_iff] using h
    exact .inr ⟨sl, a, ha, .inl (List.mem_singleton.mp hx)⟩
  | update k sl a t =>
    obtain ⟨⟨ha, -⟩, rfl⟩ : (a < 2 ^ c.addrW ∧ _) ∧ [asmUpdate sl a t] = cs := by
      simpa [assemble, addrFits_iff] using h
    exact .inr ⟨sl, a, ha, .inr ⟨t, List.mem_singleton.mp hx⟩⟩
  | occur sl a t =>
    obtain ⟨ha, rfl⟩ : a < 2 ^ c.addrW ∧ [asmPredict sl a, asmUpdate sl a t] = cs := by
      simpa [assemble, addrFits_iff] using h
    rcases List.mem_pair.mp hx with rfl | rfl
    · exact .inr ⟨sl, a, ha, .inl rfl⟩
    · exact .inr ⟨sl, a, ha, .inr ⟨t, rfl⟩⟩

/-- Settles O7: the lines that assemble by their equations, the refusals by the two checks, and the bytes by `mem_assemble`. -/
theorem assembledCommands : Obligations.AssembledCommands := by
  intro c
  refine ⟨fun k sl a ha hk => ?_, fun k sl a t ha hk => ?_, fun b a ha => assemble_err ha b, ⟨0, rfl⟩,
    fun k sl a t hk => ?_, fun k sl a t b ha => ?_, fun l cs x hl h hx => ?_⟩
  · simp [assemble_predict ha hk, asmPredict_cmd_toNat]
  · simp [assemble_update ha t hk, asmUpdate_cmd_toNat]
  · have hs : suffixFits c.units (some k) sl = false := by simp [suffixFits, hk]
    simp [assemble, hs]
  · have hoff : addrFits c a = false := by simp [addrFits, ha]
    simp [assemble, hoff]
  · rcases mem_assemble hl h hx with rfl | ⟨sl, a, ha, rfl | ⟨t, rfl⟩⟩
    · exact ⟨by decide, by decide, Nat.two_pow_pos _⟩
    · have hslot := (slotBits sl).isLt
      rw [asmPredict_cmd_toNat]
      exact ⟨by omega, by omega, ha⟩
    · have hslot := (slotBits sl).isLt
      have ht := Bool.toNat_le t
      rw [asmUpdate_cmd_toNat]
      exact ⟨by omega, by omega, ha⟩

/-- Settles O8: all three lines make one check, that of the address, since no suffix stands in them. -/
theorem occurIsPredictThenUpdate : Obligations.OccurIsPredictThenUpdate := by
  intro c sl a t
  by_cases ha : addrFits c a = true
  · simp [assemble, assembleAll, suffixFits, ha]
  · simp [assemble, assembleAll, ha]

/-- Settles O4: the lines by their equations, since `2 ^ 5` is on the bus, and the bytes by the decoder's lines. -/
theorem encodingExamples : Obligations.EncodingExamples := by
  intro w hw c
  have hbus : ∀ a < 2 ^ 5, a < 2 ^ c.addrW := fun a ha => ha.trans_le (Nat.pow_le_pow_right two_pos hw)
  have hign : cmdIgn 0x00#8 = 0 := by decide
  refine ⟨assemble_predict (hbus 16 (by decide)) (.inl rfl), assemble_update (hbus 16 (by decide)) false (.inl rfl),
    assemble_update (hbus 5 (by decide)) true (.inl rfl), assemble_update (hbus 9 (by decide)) true (.inl rfl),
    ⟨0, rfl⟩, fun a => hign ▸ decode_nop (x := ⟨0x00#8, a⟩) rfl, fun s a hs => ?_⟩
  have h23 : cmdOp 0x23#8 ≠ 0b00#2 ∧ cmdOp 0x23#8 = 0b11#2 := by decide
  have h21 : cmdOp 0x21#8 ≠ 0b00#2 ∧ cmdRsvd 0x21#8 ≠ 0b000#3 := by decide
  have h0D : slotOfBits (cmdUnit 0x0D#8) = .u3 ∧ cmdOp 0x0D#8 = 0b01#2 ∧ cmdRsvd 0x0D#8 = 0b000#3 := by decide
  have hnone : s.units.get .u3 = .none := by rw [hs]; rfl
  have hslot : s.slot .u3 = .none := Slot.config_eq_none.mp (by rwa [State.units_get] at hnone)
  simp only [step_offer]
  exact ⟨exec_decode_malformed (x := ⟨0x23#8, a⟩) _ h23.1 (.inl h23.2) s,
    exec_decode_malformed (x := ⟨0x21#8, a⟩) _ h21.1 (.inr h21.2) s,
    exec_decode_unconfigured (x := ⟨0x0D#8, a⟩) h0D.1 (.inl h0D.2.1) h0D.2.2 hnone hslot⟩

end Sys2Proof.Machine

/-! PROOFS. Counters, history registers and indices (spec 40_counter_primitives.md R80 to R88). -/

namespace Sys2Proof.Machine

/-! ## Counters -/

/-- A run of taken trainings climbs one step at a time and stops at 3 (R77, R79). -/
theorem foldl_ctrTrain_replicate_true_toNat (c : Counter) (k : Nat) :
    ((List.replicate k true).foldl ctrTrain c).toNat = min (c.toNat + k) 3 := by
  induction k generalizing c with
  | zero =>
    have hc := c.isLt
    simp only [List.replicate_zero, List.foldl_nil]
    omega
  | succ k ih =>
    rw [List.replicate_succ, List.foldl_cons, ih, ctrTrain_toNat, if_pos rfl]
    omega

/-- A run of not-taken trainings falls one step at a time and stops at 0 (R78, R79). -/
theorem foldl_ctrTrain_replicate_false_toNat (c : Counter) (k : Nat) :
    ((List.replicate k false).foldl ctrTrain c).toNat = c.toNat - k := by
  induction k generalizing c with
  | zero => rfl
  | succ k ih =>
    rw [List.replicate_succ, List.foldl_cons, ih, ctrTrain_toNat, if_neg Bool.false_ne_true]
    omega

/-- The prediction flips only between the two middle states, where training crosses the threshold (R81). -/
theorem ctrPredict_ctrTrain_ne_iff (c : Counter) (t : Bool) :
    ctrPredict (ctrTrain c t) ≠ ctrPredict c ↔ (c = 1 ∧ t = true) ∨ (c = 2 ∧ t = false) := by
  revert c t
  decide

/-- Settles O35: the twelve entries of the table, computed. -/
theorem counterStateMachine : Obligations.CounterStateMachine := by
  unfold Obligations.CounterStateMachine
  decide

/-- Settles O36: the flips are read off the four states; the size of a step is that of the counter's training as a number. -/
theorem counterHysteresis : Obligations.CounterHysteresis := by
  intro c t
  have hc := c.isLt
  refine ⟨ctrPredict_ctrTrain_ne_iff c t, ?_⟩
  rw [ctrTrain_toNat]
  cases t with
  | true => rw [if_pos rfl]; omega
  | false => rw [if_neg Bool.false_ne_true]; omega

/-- Settles O37: no counter is more than three steps from either bound. -/
theorem counterSaturation : Obligations.CounterSaturation := by
  intro c k
  have hc := c.isLt
  refine ⟨fun hk => ⟨BitVec.eq_of_toNat_eq ?_, BitVec.eq_of_toNat_eq ?_⟩, rfl, rfl⟩
  · rw [foldl_ctrTrain_replicate_true_toNat, show (3 : Counter).toNat = 3 from rfl]
    omega
  · rw [foldl_ctrTrain_replicate_false_toNat, show (0 : Counter).toNat = 0 from rfl]
    omega

/-! ## History registers -/

/-- The shift leaves bit 0 free, so setting it is adding it. -/
theorem histShift_eq (h : Nat) (t : Bool) (hb : Nat) : histShift h t hb = (2 * h + t.toNat) % 2 ^ hb := by
  rw [histShift, Nat.shiftLeft_eq, Nat.mul_comm, ← Nat.two_pow_add_eq_or_of_lt (i := 1) (Bool.toNat_lt t), pow_one]

theorem histShift_testBit_of_le {hb k : Nat} (h : Nat) (t : Bool) (hk : hb ≤ k) :
    (histShift h t hb).testBit k = false :=
  Nat.testBit_lt_two_pow ((histShift_lt h t hb).trans_le (Nat.pow_le_pow_right two_pos hk))

theorem histShift_testBit_zero {hb : Nat} (h : Nat) (t : Bool) (hb0 : 0 < hb) : (histShift h t hb).testBit 0 = t := by
  rw [histShift, Nat.testBit_mod_two_pow]
  cases t <;> simp [hb0]

theorem histShift_testBit_succ {hb k : Nat} (h : Nat) (t : Bool) (hk : k + 1 < hb) :
    (histShift h t hb).testBit (k + 1) = h.testBit k := by
  have ht : t.toNat.testBit (k + 1) = false :=
    Nat.testBit_lt_two_pow ((Bool.toNat_lt t).trans_le (Nat.le_self_pow k.succ_ne_zero 2))
  rw [histShift, Nat.testBit_mod_two_pow]
  simp [hk, ht]

/-- Inside the register, bit `k` is the outcome `k` places before the last, and past the first outcome the old register's
bits follow (R84). -/
theorem foldl_histShift_testBit {hb k : Nat} (h₀ : Nat) (ts : List Bool) (hk : k < hb) :
    (ts.foldl (fun h t => histShift h t hb) h₀).testBit k = ts.reverse[k]?.getD (h₀.testBit (k - ts.length)) := by
  induction ts using List.reverseRecOn generalizing k with
  | nil => rfl
  | append_singleton ts t ih =>
    rw [List.foldl_append, List.foldl_cons, List.foldl_nil, List.reverse_concat, List.length_append,
      List.length_singleton]
    cases k with
    | zero => exact histShift_testBit_zero _ t hk
    | succ k =>
      rw [histShift_testBit_succ _ t hk, ih (by omega), List.getElem?_cons_succ, Nat.add_sub_add_right]

/-- Once something was shifted in, the register is bounded by its width. -/
theorem foldl_histShift_testBit_of_le {hb k : Nat} (h₀ : Nat) {ts : List Bool} (hts : ts ≠ []) (hk : hb ≤ k) :
    (ts.foldl (fun h t => histShift h t hb) h₀).testBit k = false := by
  rw [← List.dropLast_concat_getLast hts, List.foldl_append]
  exact histShift_testBit_of_le _ _ hk

/-- Settles O38: the number by `histShift_eq`, then bit 0, the bits that move up, and the bits masked off. -/
theorem historyShift : Obligations.HistoryShift := by
  intro h t hb
  refine ⟨histShift_eq h t hb, histShift_testBit_zero h t, fun k hk hkb => ?_, fun k => histShift_testBit_of_le h t⟩
  obtain ⟨k, rfl⟩ := Nat.exists_eq_add_of_le' hk
  exact histShift_testBit_succ h t hkb

/-- Settles O39: the outcomes read from the last one back, then the old register, by `foldl_histShift_testBit`. -/
theorem historyAfterManyShifts : Obligations.HistoryAfterManyShifts := by
  intro h₀ hb ts k h
  refine ⟨fun hk => ?_, fun hlen hk => ?_, fun hlen hk => ?_⟩
  · obtain ⟨hlen, hk⟩ := lt_min_iff.mp hk
    rw [foldl_histShift_testBit h₀ ts hk, ← List.getElem?_reverse hlen, List.getElem?_eq_getElem (by simpa using hlen),
      Option.getD_some]
  · rw [foldl_histShift_testBit h₀ ts hk, List.getElem?_eq_none (by simpa using hlen), Option.getD_none]
  · exact foldl_histShift_testBit_of_le h₀ (List.ne_nil_of_length_pos hlen) hk

/-! ## Indices -/

/-- For a size that is a power of two, reducing after the XOR is reducing both operands before it (R87). -/
theorem xorIndex_two_pow (a : Addr) (h k : Nat) : xorIndex a h (2 ^ k) = a % 2 ^ k ^^^ h % 2 ^ k :=
  Nat.xor_mod_two_pow

/-- Settles O41: both indices are remainders. -/
theorem indicesAreInBounds : Obligations.IndicesAreInBounds :=
  fun a h _ hn => ⟨bimIndex_lt a hn, xorIndex_lt a h hn⟩

/-- Settles O42: a remainder by `2 ^ k` is the low `k` bits, and a history below `2 ^ k` is its own. -/
theorem indexOfPowerOfTwoSizeIsTheLowBits : Obligations.IndexOfPowerOfTwoSizeIsTheLowBits := by
  intro a h k j
  refine ⟨Nat.testBit_mod_two_pow a k j, ?_, fun hk => ?_⟩
  · rw [xorIndex, Nat.testBit_mod_two_pow, Nat.testBit_xor]
  · rw [xorIndex_two_pow, Nat.mod_eq_of_lt hk]

end Sys2Proof.Machine

/-! PROOFS. The bimodal predictor (spec 41_bimodal.md R90 to R93). -/

namespace Sys2Proof.Machine

/-! ## An accepted PREDICT or UPDATE of any kind -/

/-- The response to a PREDICT is read off the slot it is addressed to, whatever kind its mnemonic names. -/
@[simp] theorem State.responseTo_encode_ofPredict (s : State) (k : Option Kind) (sl : SlotId) (x : Bool) (a : Addr) :
    s.responseTo (encode (.ofPredict k sl x a)) = (s.slot sl).response a := by
  simp [State.responseTo]

/-- An UPDATE responds as a PREDICT would (R132). -/
@[simp] theorem State.responseTo_encode_ofUpdate (s : State) (k : Option Kind) (sl : SlotId) (t : Bool) (a : Addr) :
    s.responseTo (encode (.ofUpdate k sl t a)) = (s.slot sl).response a := by
  simp [State.responseTo]

theorem State.afterCommand_encode_ofPredict_slot (s : State) (k : Option Kind) (sl sl' : SlotId) (x : Bool) (a : Addr) :
    (s.afterCommand (encode (.ofPredict k sl x a))).slot sl' = s.slot sl' := by
  rw [State.afterCommand_slot, Slot.after_of_not_trains _ (trains_predict sl' (by simp))]

/-- An UPDATE trains the slot it is addressed to; a slot configured `NONE` has nothing to train. -/
theorem State.afterCommand_encode_ofUpdate_slot (s : State) (k : Option Kind) (sl : SlotId) (t : Bool) (a : Addr) :
    (s.afterCommand (encode (.ofUpdate k sl t a))).slot sl = (s.slot sl).train a t := by
  rw [State.afterCommand_slot, Slot.after, trains_of_update sl (by simp) (by simp)]
  cases hs : s.slot sl <;> simp [hs, Slot.config, Slot.train]

/-! ## The entry that an UPDATE trains (R91) -/

@[simp] theorem memRead_bimUpdate_same (b : Bim) (a : Addr) (t : Bool) :
    memRead (bimUpdate b a t).T (bimIndex a b.tableSize) = ctrTrain (memRead b.T (bimIndex a b.tableSize)) t :=
  memRead_memWrite_same _ _ _

theorem memRead_bimUpdate_other (b : Bim) (a : Addr) (t : Bool) {j : Nat} (hj : j ≠ bimIndex a b.tableSize) :
    memRead (bimUpdate b a t).T j = memRead b.T j :=
  memRead_memWrite_other _ _ hj

/-- Settles O16: the meaning of PREDICT.BIM on a BIM slot, and its byte field by field. -/
theorem predictBimResult : Obligations.PredictBimResult :=
  fun _ sl _ x a hs => ⟨execPredictBim_eq x a hs, by simp [encode, packCmd_toNat]⟩

/-- Settles O17: the entry written by `memRead_bimUpdate_same`, the other entries and slots by the laws of a write at another
place. -/
theorem updateBimResult : Obligations.UpdateBimResult := by
  intro s sl b t a hs i c
  refine ⟨by simp [encode, packCmd_toNat], _, bimUpdate b a t, execUpdateBim_eq t a hs, rfl, by simp, rfl, ?_,
    fun j hj => memRead_bimUpdate_other b a t hj, fun sl' hsl => ?_, by simp⟩
  · exact (congrArg BitVec.toNat (memRead_bimUpdate_same b a t)).trans (ctrTrain_toNat _ t)
  · rw [State.respond_slot, State.slot_setSlot_other _ _ hsl]

/-! ## Aliasing (R92) -/

/-- An address with the trained one's remainder predicts the trained entry. -/
theorem bimPredict_bimUpdate_of_alias {b : Bim} {a₁ a₂ : Addr} (t : Bool)
    (h : bimIndex a₁ b.tableSize = bimIndex a₂ b.tableSize) :
    bimPredict (bimUpdate b a₁ t) a₂ = ctrPredict (ctrTrain (memRead b.T (bimIndex a₂ b.tableSize)) t) := by
  rw [bimPredict, bimUpdate_tableSize, ← h, memRead_bimUpdate_same]

/-- The responses to an UPDATE between two PREDICTs: only the last one sees the trained unit. -/
theorem responses_of_predict_update_predict {s : State} {sl : SlotId} {b : Bim} (hs : s.slot sl = .bim b) (x t : Bool)
    (a₁ a₂ : Addr) :
    (runCommands s [encode (.predictBim sl x a₂), encode (.updateBim sl t a₁), encode (.predictBim sl x a₂)]).1 =
      [⟨bimPredict b a₂, .ok⟩, ⟨bimPredict b a₁, .ok⟩, ⟨bimPredict (bimUpdate b a₁ t) a₂, .ok⟩] := by
  change (runCommands s [encode (.ofPredict (some .bim) sl x a₂), encode (.ofUpdate (some .bim) sl t a₁),
    encode (.ofPredict (some .bim) sl x a₂)]).1 = _
  simp only [runCommands_cons, runCommands_nil, State.responseTo_encode_ofPredict, State.responseTo_encode_ofUpdate,
    State.afterCommand_encode_ofPredict_slot, State.afterCommand_encode_ofUpdate_slot, hs, Slot.train, Slot.response]

/-- Settles O46: both addresses read the trained entry, and Scenario B computes its three predictions. -/
theorem bimAliasing : Obligations.BimAliasing := by
  refine ⟨fun s sl b t a₁ a₂ hs halias => ?_, fun s sl hs => ?_⟩
  · have hs' : ((s.setSlot sl (.bim (bimUpdate b a₁ t))).respond (bimPredict b a₁) .ok).slot sl =
        .bim (bimUpdate b a₁ t) := by simp
    have hsame : bimPredict (bimUpdate b a₁ t) a₁ = bimPredict (bimUpdate b a₁ t) a₂ := by
      rw [bimPredict_bimUpdate_of_alias t rfl, bimPredict_bimUpdate_of_alias t halias, bimIndex, bimIndex, halias]
    exact ⟨_, bimPredict (bimUpdate b a₁ t) a₂, execUpdateBim_eq t a₁ hs, hsame ▸ execPredictBim_eq false a₁ hs',
      execPredictBim_eq false a₂ hs', bimPredict_bimUpdate_of_alias t halias⟩
  · rw [responses_of_predict_update_predict hs]
    decide

/-! ## The unit's state is its UPDATEs (R93) -/

/-- The fold of a slot's commands, on a BIM unit. -/
theorem foldl_after_bim (u : Units) (sl : SlotId) (cs : List Command) (b : Bim) :
    cs.foldl (Slot.after u sl) (.bim b) =
      .bim ((cs.filter (trains u sl)).foldl (fun b x => bimUpdate b x.addr (x.cmd.getLsbD 4)) b) := by
  induction cs generalizing b with
  | nil => rfl
  | cons c cs ih =>
    by_cases h : trains u sl c = true
    · have hafter : Slot.after u sl (.bim b) c = .bim (bimUpdate b c.addr (c.cmd.getLsbD 4)) := if_pos h
      rw [List.foldl_cons, hafter, ih, List.filter_cons_of_pos h, List.foldl_cons]
    · rw [List.foldl_cons, Slot.after_of_not_trains _ (by simpa using h), ih, List.filter_cons_of_neg h]

/-- Writes of different entries of a canonical table commute: the two results agree entry by entry. -/
theorem memWrite_comm {n i j : Nat} {t : Table} (v w : Counter) (ht : t.wf n = true) (hi : i < n) (hj : j < n)
    (hij : i ≠ j) : memWrite (memWrite t i v) j w = memWrite (memWrite t j w) i v := by
  refine Table.eq_of_memRead_eq (memWrite_wf w (memWrite_wf v ht hi) hj) (memWrite_wf v (memWrite_wf w ht hj) hi)
    fun k _ => ?_
  by_cases hki : k = i
  · subst hki
    rw [memRead_memWrite_other _ _ hij, memRead_memWrite_same, memRead_memWrite_same]
  by_cases hkj : k = j
  · subst hkj
    rw [memRead_memWrite_other _ _ hki, memRead_memWrite_same, memRead_memWrite_same]
  · simp only [memRead_memWrite_other _ _ hki, memRead_memWrite_other _ _ hkj]

/-- The second of two UPDATEs of different entries trains what its entry held before the first. -/
theorem bimUpdate_bimUpdate_of_ne {b : Bim} {a₁ a₂ : Addr} (t₁ t₂ : Bool)
    (hne : bimIndex a₁ b.tableSize ≠ bimIndex a₂ b.tableSize) :
    bimUpdate (bimUpdate b a₁ t₁) a₂ t₂ =
      ⟨b.tableSize, memWrite (bimUpdate b a₁ t₁).T (bimIndex a₂ b.tableSize)
        (ctrTrain (memRead b.T (bimIndex a₂ b.tableSize)) t₂)⟩ := by
  rw [bimUpdate, bimUpdate_tableSize, memRead_bimUpdate_other _ _ _ hne.symm]

theorem bimUpdate_comm {b : Bim} {a₁ a₂ : Addr} (t₁ t₂ : Bool) (hwf : b.wf = true)
    (hne : bimIndex a₁ b.tableSize ≠ bimIndex a₂ b.tableSize) :
    bimUpdate (bimUpdate b a₁ t₁) a₂ t₂ = bimUpdate (bimUpdate b a₂ t₂) a₁ t₁ := by
  obtain ⟨hsize, htable⟩ : 1 ≤ b.tableSize ∧ b.T.wf b.tableSize = true := by simpa [Bim.wf] using hwf
  rw [bimUpdate_bimUpdate_of_ne t₁ t₂ hne, bimUpdate_bimUpdate_of_ne t₂ t₁ hne.symm]
  exact congrArg (Bim.mk b.tableSize) (memWrite_comm _ _ htable (bimIndex_lt a₁ hsize) (bimIndex_lt a₂ hsize) hne)

/-- Settles O47: the run's fold on the slot, and the commutation of UPDATEs; an entry at 0 saturates, so that the order of its
two UPDATEs shows. -/
theorem bimStateIsTheFoldOfItsUpdates : Obligations.BimStateIsTheFoldOfItsUpdates := by
  refine ⟨fun s sl b cs hs => ?_, fun s s' sl b x a hs hs' => ?_, fun b a₁ a₂ t₁ t₂ => bimUpdate_comm t₁ t₂,
    ⟨1, [(0, 0)]⟩, 0, by decide, by decide⟩
  · rw [runCommands_slot, hs, foldl_after_bim]
  · exact ⟨⟨bimPredict b a, .ok⟩, execPredictBim_eq x a hs, execPredictBim_eq x a hs'⟩

end Sys2Proof.Machine

/-! PROOFS. The GShare predictor (spec 42_gshare.md R100 to R103). -/

namespace Sys2Proof.Machine

/-! ## The entry that an UPDATE trains (R101) -/

@[simp] theorem memRead_gshUpdate_same (g : Gsh) (a : Addr) (t : Bool) :
    memRead (gshUpdate g a t).T (gshIndex g a) = ctrTrain (memRead g.T (gshIndex g a)) t :=
  memRead_memWrite_same _ _ _

theorem memRead_gshUpdate_other (g : Gsh) (a : Addr) (t : Bool) {j : Nat} (hj : j ≠ gshIndex g a) :
    memRead (gshUpdate g a t).T j = memRead g.T j :=
  memRead_memWrite_other _ _ hj

/-- Settles O18: the meaning of PREDICT.GSH on a GSH slot, and its byte field by field. -/
theorem predictGshResult : Obligations.PredictGshResult :=
  fun _ sl _ x a hs => ⟨execPredictGsh_eq x a hs, by simp [encode, packCmd_toNat]⟩

/-- Settles O19: the entry of the old history by `memRead_gshUpdate_same`, the history by `histShift_eq`, the other entries and
slots by the laws of a write at another place. -/
theorem updateGshResult : Obligations.UpdateGshResult := by
  intro s sl g t a hs i c
  refine ⟨by simp [encode, packCmd_toNat], _, gshUpdate g a t, execUpdateGsh_eq t a hs, rfl, by simp, rfl, ?_,
    fun j hj => memRead_gshUpdate_other g a t hj, histShift_eq g.h t g.historyBits, fun sl' hsl => ?_, by simp⟩
  · exact (congrArg BitVec.toNat (memRead_gshUpdate_same g a t)).trans (ctrTrain_toNat _ t)
  · rw [State.respond_slot, State.slot_setSlot_other _ _ hsl]

/-! ## The history after a run (R102) -/

/-- A slot's fold over a run is that of the trainings alone. -/
theorem foldl_after_eq_foldl_train (u : Units) (sl : SlotId) (cs : List Command) (v : Slot) :
    cs.foldl (Slot.after u sl) v =
      (cs.filter (trains u sl)).foldl (fun v c => v.train c.addr (cmdT c.cmd)) v := by
  rw [List.foldl_filter]
  rfl

/-- A run's commands act on a GSH slot as the unit's UPDATEs. -/
theorem foldl_after_gsh (u : Units) (sl : SlotId) (cs : List Command) (g : Gsh) :
    cs.foldl (Slot.after u sl) (.gsh g) =
      .gsh ((cs.filter (trains u sl)).foldl (fun g c => gshUpdate g c.addr (cmdT c.cmd)) g) := by
  rw [foldl_after_eq_foldl_train]
  exact List.foldl_hom Slot.gsh fun _ _ => rfl

/-- The history register of a sequence of UPDATEs depends on their outcomes alone, whatever the addresses. -/
theorem foldl_gshUpdate_h (cs : List Command) (g : Gsh) :
    (cs.foldl (fun g c => gshUpdate g c.addr (cmdT c.cmd)) g).h =
      (cs.map fun c => cmdT c.cmd).foldl (fun h t => histShift h t g.historyBits) g.h := by
  induction cs generalizing g with
  | nil => rfl
  | cons c cs ih => exact ih (gshUpdate g c.addr (cmdT c.cmd))

/-- From an empty register nothing stands above the last outcomes (R84). -/
theorem foldl_histShift_zero_testBit_of_le {hb k : Nat} {ts : List Bool} (hk : min ts.length hb ≤ k) :
    (ts.foldl (fun h t => histShift h t hb) 0).testBit k = false := by
  rcases lt_or_ge k hb with hkb | hkb
  · have hlen : ts.reverse.length ≤ k := by
      rw [List.length_reverse]
      omega
    rw [foldl_histShift_testBit 0 ts hkb, List.getElem?_eq_none hlen, Option.getD_none, Nat.zero_testBit]
  · rcases eq_or_ne ts [] with rfl | hts
    · exact Nat.zero_testBit k
    · exact foldl_histShift_testBit_of_le 0 hts hkb

/-- Settles O40: the run's fold on the slot shifts the outcomes into an empty register, whose bits `historyAfterManyShifts`
reads. -/
theorem gshHistoryIsTheLastOutcomes : Obligations.GshHistoryIsTheLastOutcomes := by
  intro u sl hb cs hu ts
  have hslot : (State.construct u).slot sl = .gsh (Gsh.construct hb) := by
    rw [State.construct_slot, hu, Slot.construct]
  have hts : ts = (cs.filter (trains u sl)).map fun x => cmdT x.cmd := by
    simp only [ts, cmdT_eq]
  refine ⟨_, by rw [runCommands_slot, State.construct_units, hslot, foldl_after_gsh], fun k => ?_⟩
  rw [foldl_gshUpdate_h, ← hts]
  exact ⟨(historyAfterManyShifts 0 hb ts k).1, foldl_histShift_zero_testBit_of_le⟩

/-! ## Shared entries (R103) -/

/-- The index of a history in range: the address's low bits XOR the whole register. -/
theorem gshIndex_eq {g : Gsh} (a : Addr) (h : g.h < 2 ^ g.historyBits) :
    gshIndex g a = a % 2 ^ g.historyBits ^^^ g.h := by
  rw [gshIndex, xorIndex_two_pow, Nat.mod_eq_of_lt h]

/-- Address `a` meets entry `j` at the history that differs from the address's low bits where `j` has ones. -/
theorem exists_history_gshIndex_eq (g : Gsh) (a : Addr) {j : Nat} (hj : j < 2 ^ g.historyBits) :
    ∃ h, h < 2 ^ g.historyBits ∧ gshIndex { g with h := h } a = j := by
  have hlt : a % 2 ^ g.historyBits ^^^ j < 2 ^ g.historyBits := Nat.xor_lt_two_pow (Nat.mod_lt _ (Nat.two_pow_pos _)) hj
  exact ⟨_, hlt, by rw [gshIndex_eq a hlt, Nat.xor_xor_cancel_left]⟩

/-- Settles O43: both indices by `gshIndex_eq`; XOR with the address's low bits is injective, and its own inverse. -/
theorem whenGshAccessesShareAnEntry : Obligations.WhenGshAccessesShareAnEntry := by
  intro g₁ g₂ a₁ a₂ hbits h₁ h₂
  refine ⟨by rw [gshIndex_eq a₁ h₁, gshIndex_eq a₂ h₂], fun hshare => ?_,
    fun _ hj => exists_history_gshIndex_eq g₁ a₁ hj⟩
  rw [gshIndex_eq a₁ h₁, gshIndex_eq a₁ h₂, ← hbits] at hshare
  exact Nat.xor_right_injective hshare

end Sys2Proof.Machine

/-! PROOFS. The hybrid predictor (spec 43_hybrid.md R110 to R121). -/

namespace Sys2Proof.Machine

/-! ## The selector entry that an UPDATE moves (R114) -/

/-- A counter moved away from what it predicts stands next to the threshold, wherever it was (R77 to R79). -/
theorem ctrTrain_not_ctrPredict (c : Counter) : ctrTrain c (!ctrPredict c) = 1 ∨ ctrTrain c (!ctrPredict c) = 2 := by
  revert c
  decide

theorem ctrTrain_not_ctrPredict_toNat (c : Counter) :
    (ctrTrain c (!ctrPredict c)).toNat = if 1 < c.toNat then c.toNat - 1 else min (c.toNat + 1) 3 := by
  revert c
  decide

/-- Of the two middle states, one becomes the other. -/
theorem ctrTrain_not_ctrPredict_toNat_of_toggle {c : Counter} (h : c = 1 ∨ c = 2) :
    (ctrTrain c (!ctrPredict c)).toNat = 3 - c.toNat := by
  rcases h with rfl | rfl <;> rfl

theorem hybUpdate_S_of_hit {y : Hyb} {a : Addr} {t : Bool} (h : hybPredict y a = t) : (hybUpdate y a t).S = y.S := by
  rw [hybUpdate_S, if_pos h]

/-- On a miss the indexed entry is trained toward the unit that was not chosen. -/
theorem memRead_hybUpdate_S_of_miss {y : Hyb} {a : Addr} {t : Bool} (h : hybPredict y a ≠ t) :
    memRead (hybUpdate y a t).S (hybSelIndex y a) = ctrTrain (memRead y.S (hybSelIndex y a)) (!hybFavorG y a) := by
  rw [hybUpdate_S, if_neg h, memRead_memWrite_same]
  cases hybFavorG y a <;> rfl

theorem memRead_hybUpdate_S_other (y : Hyb) (a : Addr) (t : Bool) {j : Nat} (hj : j ≠ hybSelIndex y a) :
    memRead (hybUpdate y a t).S j = memRead y.S j := by
  rw [hybUpdate_S]
  split
  · rfl
  · exact memRead_memWrite_other _ _ hj

/-! ## The hybrid's two invariants (R118, R119) -/

/-- Training shifts the one outcome into both histories. -/
theorem Slot.train_equalHistories {v : Slot} (a : Addr) (t : Bool) (h : v.EqualHistories) :
    (v.train a t).EqualHistories := by
  cases v with
  | hyb y =>
    have hy : y.hh = y.gsh.h := h
    change (hybUpdate y a t).hh = (hybUpdate y a t).gsh.h
    rw [hybUpdate_hh, hybUpdate_gsh, gshUpdate_h, hy]
  | none | bim b | gsh g => trivial

/-- Training keeps an entry or moves it away from the chosen unit. -/
theorem Slot.train_selectorIsToggle {v : Slot} (a : Addr) (t : Bool) (h : v.SelectorIsToggle) :
    (v.train a t).SelectorIsToggle := by
  cases v with
  | hyb y =>
    intro i
    by_cases hit : hybPredict y a = t
    · rw [hybUpdate_S_of_hit hit]
      exact h i
    by_cases hi : i = hybSelIndex y a
    · rw [hi, memRead_hybUpdate_S_of_miss hit]
      exact ctrTrain_not_ctrPredict _
    · rw [memRead_hybUpdate_S_other y a t hi]
      exact h i
  | none | bim b | gsh g => trivial

/-- A property of slots that holds at construction and that training keeps is kept by every step. -/
theorem step_keeps_slot_property {P : Slot → Prop} (hconstruct : ∀ u, P (Slot.construct u))
    (htrain : ∀ v a t, P v → P (v.train a t)) {s s' : State} {sl : SlotId} (h : step s = .next s') (hs : P (s.slot sl)) :
    P (s'.slot sl) := by
  rcases step_slot_cases h sl with hkeep | ⟨p, rest, -, -, hreset⟩ | ⟨p, rest, r, -, -, -, -, htr⟩
  · exact hkeep ▸ hs
  · exact hreset ▸ hconstruct _
  · exact htr ▸ htrain _ _ _ hs

/-- Settles O57: both properties hold of every construction value, and training keeps them. -/
theorem stepKeepsTheHybridInvariants : Obligations.StepKeepsTheHybridInvariants :=
  fun _ _ _ h =>
    ⟨step_keeps_slot_property Slot.construct_equalHistories (fun _ a t => Slot.train_equalHistories a t) h,
      step_keeps_slot_property Slot.construct_selectorIsToggle (fun _ a t => Slot.train_selectorIsToggle a t) h⟩

/-- A property of slots that holds at construction and that every step keeps holds in every reachable state. -/
theorem Reachable.slot_property {P : Slot → Prop} (hconstruct : ∀ u, P (Slot.construct u))
    (hstep : ∀ s s' sl, step s = .next s' → P (s.slot sl) → P (s'.slot sl)) {c : Config} {s : State}
    (h : Reachable c s) (sl : SlotId) : P (s.slot sl) := by
  induction h with
  | afterReset input hc hin =>
    rw [State.withInput_slot, State.construct_slot]
    exact hconstruct _
  | afterStep s s' _ hs' ih => exact hstep s s' sl hs' ih

/-- Settles O51: the histories are equal at construction, and O57 keeps them so. -/
theorem reachableHistoriesAreEqual : Obligations.ReachableHistoriesAreEqual :=
  fun _ _ h => h.slot_property Slot.construct_equalHistories fun s s' sl hs => (stepKeepsTheHybridInvariants s s' sl hs).1

theorem Reachable.selectorIsToggle {c : Config} {s : State} (h : Reachable c s) (sl : SlotId) :
    (s.slot sl).SelectorIsToggle :=
  h.slot_property Slot.construct_selectorIsToggle (fun s s' sl hs => (stepKeepsTheHybridInvariants s s' sl hs).2) sl

/-- The threshold separates the two middle states (R76). -/
theorem ctrPredict_iff_of_toggle {c : Counter} (h : c = 1 ∨ c = 2) :
    (ctrPredict c = true ↔ c = 2) ∧ (ctrPredict c = false ↔ c = 1) := by
  rcases h with rfl | rfl <;> decide

/-- Settles O52: `Reachable.selectorIsToggle` for the range, and what the two middle states predict and become. -/
theorem reachableSelectorIsAToggle : Obligations.ReachableSelectorIsAToggle := by
  intro c s sl y hreach hs
  have htoggle : ∀ i, memRead y.S i = 1 ∨ memRead y.S i = 2 := by
    have h := hreach.selectorIsToggle sl
    rwa [hs] at h
  refine ⟨htoggle, fun a => ctrPredict_iff_of_toggle (htoggle _), fun a t hmiss => ?_⟩
  refine ⟨_, hybUpdate y a t, execUpdateHyb_eq t a hs, by simp, ?_⟩
  rw [memRead_hybUpdate_S_of_miss hmiss]
  exact ctrTrain_not_ctrPredict_toNat_of_toggle (htoggle _)

/-! ## The meanings of PREDICT.HYB and UPDATE.HYB (R110 to R116) -/

/-- The multiplexer, with the selector's threshold as arithmetic (R111). -/
theorem hybPredict_eq (y : Hyb) (a : Addr) :
    hybPredict y a =
      if 1 < (memRead y.S (hybSelIndex y a)).toNat then gshPredict y.gsh a else bimPredict y.bim a := by
  simp [hybPredict, hybFavorG, ctrPredict]

/-- The selector entry after an UPDATE, as a number (R114). -/
theorem memRead_hybUpdate_S_toNat (y : Hyb) (a : Addr) (t : Bool) :
    (memRead (hybUpdate y a t).S (hybSelIndex y a)).toNat =
      if hybPredict y a = t then (memRead y.S (hybSelIndex y a)).toNat
      else if 1 < (memRead y.S (hybSelIndex y a)).toNat then (memRead y.S (hybSelIndex y a)).toNat - 1
      else min ((memRead y.S (hybSelIndex y a)).toNat + 1) 3 := by
  by_cases hit : hybPredict y a = t
  · rw [if_pos hit, hybUpdate_S_of_hit hit]
  · rw [if_neg hit, memRead_hybUpdate_S_of_miss hit]
    exact ctrTrain_not_ctrPredict_toNat _

/-- Settles O20: the meaning of PREDICT.HYB on a HYB slot, with the multiplexer as arithmetic, and its byte field by field. -/
theorem predictHybResult : Obligations.PredictHybResult := by
  intro s sl y x a hs sc pb pg
  have hp : hybPredict y a = if 1 < sc then pg else pb := hybPredict_eq y a
  exact ⟨hp ▸ execPredictHyb_eq x a hs, by simp [encode, packCmd_toNat]⟩

/-- Settles O21: the selector by `memRead_hybUpdate_S_toNat`, the histories by `histShift_eq`, and the inner units by what their
own UPDATEs write. -/
theorem updateHybResult : Obligations.UpdateHybResult := by
  intro s sl y t a hs n m si bi gi sc bc gc p
  have hp : hybPredict y a = p := hybPredict_eq y a
  refine ⟨by simp [encode, packCmd_toNat], _, hybUpdate y a t, execUpdateHyb_eq t a hs, by simp [hp], by simp, by simp [n],
    by simp, hp ▸ memRead_hybUpdate_S_toNat y a t, fun j hj => memRead_hybUpdate_S_other y a t hj, ?_, ?_, ?_, ?_, ?_, ?_,
    fun sl' hsl => ?_, by simp⟩
  · rw [hybUpdate_hh, histShift_eq]
  · rw [hybUpdate_bim]
    exact (congrArg BitVec.toNat (memRead_bimUpdate_same y.bim a t)).trans (ctrTrain_toNat _ t)
  · rw [hybUpdate_bim]
    exact fun j hj => memRead_bimUpdate_other y.bim a t hj
  · rw [hybUpdate_gsh]
    exact (congrArg BitVec.toNat (memRead_gshUpdate_same y.gsh a t)).trans (ctrTrain_toNat _ t)
  · rw [hybUpdate_gsh]
    exact fun j hj => memRead_gshUpdate_other y.gsh a t hj
  · rw [hybUpdate_gsh, gshUpdate_h, histShift_eq]
  · rw [State.respond_slot, State.slot_setSlot_other _ _ hsl]

/-- Settles O48: a right choice is a hit, a wrong one a miss, and the entry's training then depends on the choice alone. -/
theorem selectorMovesAwayFromAWrongChoice : Obligations.SelectorMovesAwayFromAWrongChoice := by
  intro s s' sl y y' t a hs hexec hs'
  obtain rfl : _ = s' := Host.Outcome.next.inj ((execUpdateHyb_eq t a hs).symm.trans hexec)
  obtain rfl : hybUpdate y a t = y' := by simpa using hs'
  refine ⟨fun i hi => memRead_hybUpdate_S_other y a t hi, fun hb hright => ?_, fun hb hwrong => ?_, fun hg hright => ?_,
    fun hg hwrong => ?_⟩
  · exact hybUpdate_S_of_hit ((hybPredict_of_not_favorG hb).trans hright)
  · rw [← hybPredict_of_not_favorG hb] at hwrong
    rw [memRead_hybUpdate_S_of_miss hwrong, hb]
    rfl
  · exact hybUpdate_S_of_hit ((hybPredict_of_favorG hg).trans hright)
  · rw [← hybPredict_of_favorG hg] at hwrong
    rw [memRead_hybUpdate_S_of_miss hwrong, hg]
    rfl

/-- Settles O50: the multiplexer passes on the favored unit's prediction, which that unit's PREDICT responds. -/
theorem hybridConsistency : Obligations.HybridConsistency := by
  intro s sl y x a hs
  refine ⟨⟨hybPredict y a, .ok⟩, execPredictHyb_eq x a hs, fun hg => ?_, fun hb => ?_⟩
  · rw [hybPredict_of_favorG hg]
    exact execPredictGsh_eq x a (State.slot_setSlot_same s sl _)
  · rw [hybPredict_of_not_favorG hb]
    exact execPredictBim_eq x a (State.slot_setSlot_same s sl _)

/-! ## The order of an UPDATE's writing steps (R117) -/

section
variable (y : Hyb) (si : Nat) (sc : Counter) (g p t : Bool) (a : Addr)

theorem hybNudge_hybAdvance : hybNudge (hybAdvance y t) si sc g p t = hybAdvance (hybNudge y si sc g p t) t := by
  unfold hybNudge
  split <;> rfl

theorem hybNudge_hybForward : hybNudge (hybForward y a t) si sc g p t = hybForward (hybNudge y si sc g p t) a t := by
  unfold hybNudge
  split <;> rfl

/-- The history's width, which training the inner GSH keeps, is all that the two steps share. -/
theorem hybAdvance_hybForward : hybAdvance (hybForward y a t) t = hybForward (hybAdvance y t) a t := rfl

end

/-- Settles O49: the three steps commute in pairs, which sorts every order. -/
theorem hybUpdateStepsCommute : Obligations.HybUpdateStepsCommute := by
  intro y si sc g p t a two three four
  simp only [two, three, four, hybNudge_hybAdvance, hybNudge_hybForward, hybAdvance_hybForward, and_self]

end Sys2Proof.Machine

/-! PROOFS. The rules that every command keeps (spec 44_control.md R130 to R136).

A PREDICT or an UPDATE of the slot's own kind is one function of that slot: the response is `Slot.response` of it, and an
UPDATE puts `Slot.train` of it in its place. Locality (R136) and the UPDATE's response (R132) are read off these two
equations. -/

namespace Sys2Proof.Machine

/-! ## PREDICT and UPDATE as functions of the slot -/

@[simp] theorem State.setSlot_slot_self (s : State) (sl : SlotId) : s.setSlot sl (s.slot sl) = s := by
  cases sl <;> rfl

section
variable {s : State} {sl : SlotId} {k : Option Kind} (hk : (s.slot sl).config.kind = k)
include hk

/-- A PREDICT of the slot's kind responds, and writes nothing (R90, R100, R111, R142). -/
theorem exec_ofPredict (x : Bool) (a : Addr) :
    exec (.ofPredict k sl x a) s = .next (s.respond ((s.slot sl).response a).taken ((s.slot sl).response a).err) := by
  subst hk
  cases hs : s.slot sl with
  | none => exact execPredictNone_eq x a hs
  | bim b => exact execPredictBim_eq x a hs
  | gsh g => exact execPredictGsh_eq x a hs
  | hyb y => exact execPredictHyb_eq x a hs

/-- An UPDATE of the slot's kind trains the slot, and responds from the pre-state (R91, R101, R112, R132, R142). -/
theorem exec_ofUpdate (t : Bool) (a : Addr) :
    exec (.ofUpdate k sl t a) s =
      .next ((s.setSlot sl ((s.slot sl).train a t)).respond ((s.slot sl).response a).taken ((s.slot sl).response a).err) := by
  subst hk
  cases hs : s.slot sl with
  | none =>
    have hkeep : s.setSlot sl .none = s := hs ▸ s.setSlot_slot_self sl
    rw [Slot.train, hkeep]
    exact execUpdateNone_eq t a hs
  | bim b => exact execUpdateBim_eq t a hs
  | gsh g => exact execUpdateGsh_eq t a hs
  | hyb y => exact execUpdateHyb_eq t a hs

end

/-! ## The commands that are addressed to a slot, and those that are not (R136) -/

theorem eq_ofPredict_or_ofUpdate_of_target {i : Instr} {sl : SlotId} {k : Option Kind} (h : i.target = some (sl, k)) :
    (∃ x a, i = .ofPredict k sl x a) ∨ ∃ t a, i = .ofUpdate k sl t a := by
  cases i with
  | predictBim | predictGsh | predictHyb | predictNone =>
    cases h
    exact .inl ⟨_, _, rfl⟩
  | updateBim | updateGsh | updateHyb | updateNone =>
    cases h
    exact .inr ⟨_, _, rfl⟩
  | nop | errOp11 | errRsvdPredictB5 | errRsvdPredictB6 | errRsvdPredictB7 | errRsvdUpdateB5 | errRsvdUpdateB6
  | errRsvdUpdateB7 => cases h

/-- A command that answers names the kind of its slot. -/
theorem kind_of_exec_next {i : Instr} {s s' : State} {sl : SlotId} {k : Option Kind} (ht : i.target = some (sl, k))
    (h : exec i s = .next s') : (s.slot sl).config.kind = k := by
  by_contra hk
  rw [exec_of_kind_mismatch ht hk] at h
  cases h

/-- What a command makes of the slot it is addressed to, and its response, are functions of that slot alone. -/
theorem exec_local_of_target {i : Instr} {sl : SlotId} {k : Option Kind} (ht : i.target = some (sl, k)) :
    ∃ (f : Slot → Slot) (r : Slot → Response), ∀ s : State, (s.slot sl).config.kind = k →
      exec i s = .next ((s.setSlot sl (f (s.slot sl))).respond (r (s.slot sl)).taken (r (s.slot sl)).err) := by
  rcases eq_ofPredict_or_ofUpdate_of_target ht with ⟨x, a, rfl⟩ | ⟨t, a, rfl⟩
  · exact ⟨id, Slot.response a, fun s hk => by rw [exec_ofPredict hk, id, State.setSlot_slot_self]⟩
  · exact ⟨Slot.train a t, Slot.response a, fun s hk => exec_ofUpdate hk t a⟩

/-- A NOP and the malformed commands: one response, no slot read (R131, R143). -/
theorem exec_of_target_none {i : Instr} (h : i.target = none) :
    ∃ r, ∀ s : State, exec i s = .next { s with rsp := some r } := by
  cases i with
  | nop => exact ⟨⟨false, .ok⟩, fun _ => rfl⟩
  | errOp11 | errRsvdPredictB5 | errRsvdPredictB6 | errRsvdPredictB7 | errRsvdUpdateB5 | errRsvdUpdateB6
  | errRsvdUpdateB7 => exact ⟨⟨false, .errOp⟩, fun _ => rfl⟩
  | predictBim | predictGsh | predictHyb | predictNone | updateBim | updateGsh | updateHyb | updateNone => cases h

/-- Settles O29: the same functions of equal slots, and `setSlot` writes that slot only. -/
theorem commandSeesAndChangesOneSlotOnly : Obligations.CommandSeesAndChangesOneSlotOnly := by
  refine ⟨fun i sl k s₁ s₂ t₁ ht hslot h => ?_, fun i => exec_of_target_none⟩
  have hk₁ : (s₁.slot sl).config.kind = k := kind_of_exec_next ht h
  have hk₂ : (s₂.slot sl).config.kind = k := hslot ▸ hk₁
  obtain ⟨f, r, hexec⟩ := exec_local_of_target ht
  obtain rfl : _ = t₁ := Host.Outcome.next.inj ((hexec s₁ hk₁).symm.trans h)
  refine ⟨_, hexec s₂ hk₂, by simp [hslot], by simp [hslot], fun sl' hne => ?_⟩
  rw [State.respond_slot, State.slot_setSlot_other _ _ hne]

/-! ## The response of an UPDATE (R132) -/

/-- Where the PREDICT answers, the kind is the slot's, so the UPDATE answers too, with the same response. -/
theorem exec_ofUpdate_rsp_of_ofPredict {s s₁ : State} {k : Option Kind} {sl : SlotId} {x : Bool} {a : Addr} (t : Bool)
    (h : exec (.ofPredict k sl x a) s = .next s₁) :
    ∃ s₂, exec (.ofUpdate k sl t a) s = .next s₂ ∧ s₂.rsp = s₁.rsp := by
  have hk : (s.slot sl).config.kind = k := kind_of_exec_next (target_ofPredict k sl x a) h
  obtain rfl : _ = s₁ := Host.Outcome.next.inj ((exec_ofPredict hk x a).symm.trans h)
  exact ⟨_, exec_ofUpdate hk t a, rfl⟩

/-- Settles O30: one lemma over the kind, at each of the three kinds. -/
theorem updateRespondsWithThePrediction : Obligations.UpdateRespondsWithThePrediction :=
  fun _ _ _ _ t _ => ⟨exec_ofUpdate_rsp_of_ofPredict (k := some .bim) t,
    exec_ofUpdate_rsp_of_ofPredict (k := some .gsh) t, exec_ofUpdate_rsp_of_ofPredict (k := some .hyb) t⟩

/-! ## The accepted command (R130, R131) -/

/-- Settles O10: `step_of_accepts` gives the next state, its response and the transfer taken. -/
theorem acceptedCommandHasNextStateAndResponse : Obligations.AcceptedCommandHasNextStateAndResponse := by
  intro s p rest hin hrst hvalid hready
  have hacc : p.accepts = true := by simp [PortInput.accepts, hrst, hvalid, hready]
  obtain ⟨t, r, hstep, htaken, hrsp, -⟩ := step_of_accepts hin hacc
  exact ⟨t, r, step_accepted hin hacc, hstep, hrsp, htaken⟩

/-- Settles O15: the meaning of NOP reads neither its ignored bits nor its address, and `op = 0b00` is decoded first. -/
theorem nopResult : Obligations.NopResult :=
  ⟨fun _ _ _ => rfl, fun _ x hop => ⟨cmdIgn x.cmd, decode_nop (cmdOp_eq_iff.mpr hop)⟩⟩

end Sys2Proof.Machine

/-! PROOFS. The two error responses, their order, and the refusal at elaboration (spec 60_exceptions.md R141 to R145). -/

namespace Sys2Proof.Machine

/-! ## The step that accepts a command ending in error (R141 to R143) -/

/-- A malformed command ends with `ERR_OP` in every state: no slot is looked at. -/
theorem step_offer_malformed (s : State) {x : Command} (h0 : x.cmd.toNat % 4 ≠ 0)
    (h : x.cmd.toNat % 4 = 3 ∨ x.cmd.toNat / 32 ≠ 0) : step (s.offer x) = .next (s.respond false .errOp) := by
  rw [step_offer]
  exact exec_decode_malformed s.units (mt cmdOp_eq_iff.mp h0) (h.imp cmdOp_eq_iff.mpr (mt cmdRsvd_eq_iff.mp)) s

/-- A PREDICT or an UPDATE with clear reserved bits, to a slot that holds no unit, ends with `ERR_UNIT`. -/
theorem step_offer_unconfigured {s : State} {sl : SlotId} {x : Command} (hs : s.slot sl = .none)
    (hop : x.cmd.toNat % 4 = 1 ∨ x.cmd.toNat % 4 = 2) (hunit : x.cmd.toNat / 4 % 4 = (slotBits sl).toNat)
    (hr : x.cmd.toNat / 32 = 0) : step (s.offer x) = .next (s.respond false .errUnit) := by
  have hu : s.units.get sl = .none := by rw [State.units_get, Slot.config_eq_none, hs]
  rw [step_offer]
  exact exec_decode_unconfigured (slotOfBits_of_toNat hunit) (hop.imp cmdOp_eq_iff.mpr cmdOp_eq_iff.mpr)
    (cmdRsvd_eq_iff.mpr hr) hu hs

/-- A NOP ends without error, whatever its other bits hold (R131). -/
theorem step_offer_nop (s : State) {x : Command} (h : x.cmd.toNat % 4 = 0) :
    step (s.offer x) = .next (s.respond false .ok) := by
  rw [step_offer, decode_nop (cmdOp_eq_iff.mpr h)]
  rfl

/-- Settles O24: neither step depends on the slot, so its being `NONE` and the byte naming it play no part. -/
theorem errOpBeforeErrUnit : Obligations.ErrOpBeforeErrUnit :=
  fun s _ _ _ _ => ⟨step_offer_malformed s, step_offer_nop s⟩

/-- Settles O22: the meanings of the two `NONE` commands, and the step that accepts a byte of either. -/
theorem unconfiguredSlotResult : Obligations.UnconfiguredSlotResult :=
  fun _ _ x a hs => ⟨execPredictNone_eq x a hs, execUpdateNone_eq x a hs, fun cmd => step_offer_unconfigured (x := ⟨cmd, a⟩) hs⟩

/-- Settles O23: the seven meanings are `raiseErr .errOp`, and both kinds of byte are malformed. -/
theorem malformedCommandResult : Obligations.MalformedCommandResult := by
  intro s a ign hi b7 mid cmd e
  refine ⟨rfl, rfl, rfl, rfl, rfl, rfl, rfl, fun hop => ?_, fun hop hr => ?_⟩
  · exact step_offer_malformed s (x := ⟨cmd, a⟩) (by simp [hop]) (.inl hop)
  · exact step_offer_malformed s (x := ⟨cmd, a⟩) (by rcases hop with hop | hop <;> simp [hop]) (.inr hr)

/-! ## Elaboration (R145) -/

theorem elaborate_eq_none_iff {c : Config} : elaborate c = none ↔ c.ok = false := by
  simp [elaborate]

theorem elaborate_eq_some_iff {c : Config} {s : State} :
    elaborate c = some s ↔ c.ok = true ∧ s = State.construct c.units := by
  rw [elaborate, Option.ite_none_right_eq_some, Option.some_inj, eq_comm (a := s)]

/-- A unit cannot be built exactly when one of its parameters is below 1. -/
theorem unitConfig_ok_eq_false_iff {u : UnitConfig} :
    u.ok = false ↔ (∃ n, u = .bim n ∧ n < 1) ∨ (∃ hb, u = .gsh hb ∧ hb < 1) ∨
      (∃ hb n, u = .hyb hb n ∧ (hb < 1 ∨ n < 1)) := by
  cases u <;> simp [UnitConfig.ok, imp_iff_not_or]

/-- A configuration is out of R145 at its address width or at one of its slots. -/
theorem config_ok_eq_false_iff {c : Config} : c.ok = false ↔ c.addrW < 1 ∨ ∃ sl, (c.units.get sl).ok = false := by
  have hunits : c.units.ok = false ↔ ∃ sl, (c.units.get sl).ok = false := by
    simpa using not_congr (units_ok_iff (u := c.units))
  rw [Config.ok, Bool.and_eq_false_iff, decide_eq_false_iff_not, not_le, hunits]

/-- Settles O54: `elaborate` refuses when `Config.ok` fails, and that is a parameter below 1. -/
theorem elaborationRefusesBadConfigurations : Obligations.ElaborationRefusesBadConfigurations := by
  refine fun c => ⟨?_, fun s hs => (elaborate_eq_some_iff.mp hs).2⟩
  simp only [elaborate_eq_none_iff, config_ok_eq_false_iff, unitConfig_ok_eq_false_iff]

end Sys2Proof.Machine

/-! PROOFS. Reset, completion and the re-derived prediction (spec 70_reset_and_hazards.md R161 to R171). -/

namespace Sys2Proof.Machine

/-! ## Every step completes (R171) -/

theorem PortInput.accepts_iff {p : PortInput} :
    p.accepts = true ↔ p.rst = false ∧ p.reqValid = true ∧ p.reqReady = true := by
  simp only [PortInput.accepts, Bool.and_eq_true, Bool.not_eq_true']
  tauto

/-- A step whose ports show `p` answers, and it responds exactly if it accepts: not at `rst`, and not when idle. -/
theorem step_responds_iff_accepts {s : State} {p : PortInput} {rest : List PortInput} (h : s.input = p :: rest) :
    ∃ t, step s = .next t ∧ (t.rsp ≠ none ↔ p.accepts = true) := by
  by_cases hacc : p.accepts = true
  · obtain ⟨t, r, hstep, -, hrsp, -⟩ := step_of_accepts h hacc
    exact ⟨t, hstep, by simp [hrsp, hacc]⟩
  by_cases hrst : p.rst = true
  · exact ⟨_, step_reset h hrst, by simp [hacc]⟩
  · exact ⟨_, step_not_accepted h (by simpa using hrst) (by simpa using hacc), by simp [hacc]⟩

/-- Settles O11: with nothing on the ports the step is silent, and otherwise `step_responds_iff_accepts` decides. -/
theorem everyStepCompletes : Obligations.EveryStepCompletes := by
  intro s
  cases hin : s.input with
  | nil => exact ⟨_, step_nothing hin, by simp⟩
  | cons p rest =>
    obtain ⟨t, hstep, hrsp⟩ := step_responds_iff_accepts hin
    exact ⟨t, hstep, by simp [hrsp, PortInput.accepts_iff]⟩

/-! ## The reset values (R161) -/

theorem Table.allOne_nil : Table.AllOne [] := memRead_nil

theorem Slot.construct_fresh (u : UnitConfig) : (Slot.construct u).Fresh := by
  cases u with
  | none => trivial
  | bim n => exact Table.allOne_nil
  | gsh hb => exact ⟨Table.allOne_nil, rfl⟩
  | hyb hb n => exact ⟨Table.allOne_nil, Table.allOne_nil, rfl, Table.allOne_nil, rfl⟩

theorem State.construct_slot_fresh (u : Units) (sl : SlotId) : ((State.construct u).slot sl).Fresh :=
  State.construct_slot u sl ▸ Slot.construct_fresh _

/-- Settles O12: `rst` and construction both put `Slot.construct` into every slot. -/
theorem resetGivesEveryStateItsValue : Obligations.ResetGivesEveryStateItsValue := by
  refine ⟨fun s p rest hin hrst => ?_, fun u => ⟨State.construct_units u, rfl, State.construct_slot_fresh u⟩⟩
  refine ⟨_, step_reset hin hrst, by simp, by simp, by simp, fun sl => ?_⟩
  rw [assertReset_slot]
  exact Slot.construct_fresh _

/-! ## The first prediction (R162) -/

/-- The reset value 1 is below the threshold (R76), so it predicts not-taken and, in a selector, favors Bimodal. -/
theorem Table.AllOne.ctrPredict_memRead {T : Table} (h : T.AllOne) (i : Nat) : ctrPredict (memRead T i) = false := by
  rw [h i]
  rfl

theorem bimPredict_of_allOne {b : Bim} (h : b.T.AllOne) (a : Addr) : bimPredict b a = false :=
  h.ctrPredict_memRead _

theorem gshPredict_of_allOne {g : Gsh} (h : g.T.AllOne) (a : Addr) : gshPredict g a = false :=
  h.ctrPredict_memRead _

theorem hybFavorG_of_allOne {y : Hyb} (h : y.S.AllOne) (a : Addr) : hybFavorG y a = false :=
  h.ctrPredict_memRead _

/-- A slot at its reset value predicts not-taken, a HYB slot by its inner BIM. -/
theorem Slot.Fresh.response_taken {v : Slot} (h : v.Fresh) (a : Addr) : (v.response a).taken = false := by
  cases v with
  | none => rfl
  | bim b => exact bimPredict_of_allOne h a
  | gsh g => exact gshPredict_of_allOne h.1 a
  | hyb y =>
    obtain ⟨hbim, -, -, hsel, -⟩ := h
    exact (hybPredict_of_not_favorG (hybFavorG_of_allOne hsel a)).trans (bimPredict_of_allOne hbim a)

/-- An accepted PREDICT to slot `sl` responds what the slot's unit predicts, and changes nothing else. -/
theorem step_offer_predict (s : State) (sl : SlotId) (x : Bool) (a : Addr) :
    step (s.offer ⟨packCmd 0b000#3 x (slotBits sl) 0b01#2, a⟩) =
      .next (s.respond ((s.slot sl).response a).taken ((s.slot sl).response a).err) := by
  rw [step_offer, decode_predict_byte x a rfl]
  exact exec_ofPredict (by rw [State.units_get]) x a

/-- Settles O58: every table is all ones after construction, and the PREDICT's step is `step_offer_predict`. -/
theorem firstPredictionIsNotTaken : Obligations.FirstPredictionIsNotTaken := by
  intro u sl x a
  have hfresh : ((State.construct u).slot sl).Fresh := State.construct_slot_fresh u sl
  refine ⟨fun b hs => ?_, fun g hs => ?_, fun y hs => ?_, ?_⟩
  · rw [hs] at hfresh
    exact bimPredict_of_allOne hfresh a
  · rw [hs] at hfresh
    exact gshPredict_of_allOne hfresh.1 a
  · rw [hs] at hfresh
    obtain ⟨hbim, hgsh, -, hsel, -⟩ := hfresh
    exact ⟨bimPredict_of_allOne hbim a, gshPredict_of_allOne hgsh a, hybFavorG_of_allOne hsel a⟩
  · have hstep := step_offer_predict (State.construct u) sl x a
    rw [hfresh.response_taken a] at hstep
    exact ⟨_, hstep⟩

/-! ## The re-derived prediction (R167) -/

/-- A run of commands that do not train a slot leaves it as it was. -/
theorem runCommands_slot_of_not_trains {s : State} {sl : SlotId} {cs : List Command}
    (h : ∀ c ∈ cs, trains s.units sl c = false) : (runCommands s cs).2.slot sl = s.slot sl := by
  have hnone : cs.filter (trains s.units sl) = [] := List.filter_eq_nil_iff.mpr (by simpa using h)
  rw [runCommands_slot, ← foldl_after_filter, hnone, List.foldl_nil]

/-- A PREDICT and the UPDATE at its address respond alike when the commands in between do not train their slot, whatever its
kind: both responses are read off one slot state. -/
theorem runCommands_predict_update (s : State) (k : Option Kind) {sl : SlotId} (x t : Bool) (a : Addr) {cs : List Command}
    (h : ∀ c ∈ cs, trains s.units sl c = false) :
    ∃ rs s', rs.length = cs.length ∧
      runCommands s (encode (.ofPredict k sl x a) :: (cs ++ [encode (.ofUpdate k sl t a)])) =
        ((s.slot sl).response a :: (rs ++ [(s.slot sl).response a]), s') := by
  have hpredict : trains s.units sl (encode (.ofPredict k sl x a)) = false := trains_predict sl (by simp)
  have hkeep : (runCommands s (encode (.ofPredict k sl x a) :: cs)).2.slot sl = s.slot sl :=
    runCommands_slot_of_not_trains (List.forall_mem_cons.mpr ⟨hpredict, h⟩)
  refine ⟨(runCommands (s.afterCommand (encode (.ofPredict k sl x a))) cs).1, _,
    runCommands_responses_length _ _, Prod.ext ?_ rfl⟩
  rw [← List.cons_append, runCommands_append, runCommands_cons _ _ [], State.responseTo_encode_ofUpdate, hkeep,
    runCommands_cons, State.responseTo_encode_ofPredict, runCommands_nil, List.cons_append]

/-- Settles O53: `runCommands_predict_update` at the kind HYB. From reset, one taken UPDATE at address 0 moves the inner BIM's
entry over the threshold, so that the next UPDATE at that address re-derives taken. -/
theorem rederivedPredictionIsTheDeliveredOne : Obligations.RederivedPredictionIsTheDeliveredOne := by
  constructor
  · intro s sl y x t a cs _ hcs
    exact ⟨(s.slot sl).response a, runCommands_predict_update s (some .hyb) x t a hcs⟩
  · exact ⟨0, 0, true, true, ⟨false, .ok⟩, ⟨false, .ok⟩, ⟨true, .ok⟩, _, by decide, rfl⟩

end Sys2Proof.Machine
